-- ==== Sys2Proof/Word.lean ====
section
/-! DEFINITION. The word types of the machine (spec/00_scope.md R7: all values are unsigned bit strings, bit 0 the
least significant). -/

namespace Sys2Proof

/-- A memory byte, a general register, a timer, an immediate `NN`. -/
abbrev Byte := BitVec 8

/-- A 16-bit value: an instruction word, `I`, `pc`, a return address. -/
abbrev Word := BitVec 16

/-- The 12-bit address field `NNN` of an instruction (spec/30_encoding.md R91). -/
abbrev Address := BitVec 12

/-- The index of a general register, 0 to 15: every value of a 4-bit field selects a register (R93). -/
abbrev RegIndex := Fin 16

end Sys2Proof
end

