-- ==== Sys2Proof/Syntax.lean ====
section
/-! DEFINITION. The instruction set: one constructor per row of spec/opcode_table.json, in the table's order (spec/00_scope.md
R3, spec/30_encoding.md R94). The field types carry the ranges of R93, so every term is an instruction. -/

namespace Sys2Proof

/-- The 30 instructions. `x`, `y` are the fields X and Y, `nn`, `nnn`, `n` the immediates (spec/30_encoding.md R91). -/
inductive Instr where
  /-- 00E0, clear the framebuffer -/
  | cls
  /-- 00EE, return from subroutine -/
  | ret
  /-- 1NNN, jump -/
  | jp (nnn : Address)
  /-- 2NNN, call subroutine -/
  | call (nnn : Address)
  /-- 3XNN, skip if Vx = NN -/
  | seImm (x : RegIndex) (nn : Byte)
  /-- 6XNN, load immediate -/
  | ldImm (x : RegIndex) (nn : Byte)
  /-- 7XNN, add immediate -/
  | addImm (x : RegIndex) (nn : Byte)
  /-- 8XY0, register copy -/
  | ldReg (x y : RegIndex)
  /-- 8XY1, bitwise or -/
  | orReg (x y : RegIndex)
  /-- 8XY2, bitwise and -/
  | andReg (x y : RegIndex)
  /-- 8XY3, bitwise exclusive or -/
  | xorReg (x y : RegIndex)
  /-- 8XY4, add with carry out -/
  | addReg (x y : RegIndex)
  /-- 8XY5, Vx - Vy -/
  | subReg (x y : RegIndex)
  /-- 8XY6, shift right; Y is a don't-care kept so that no bit of the word is lost (R96) -/
  | shr (x y : RegIndex)
  /-- 8XY7, Vy - Vx -/
  | subnReg (x y : RegIndex)
  /-- 8XYE, shift left; Y is a don't-care kept so that no bit of the word is lost (R96) -/
  | shl (x y : RegIndex)
  /-- 9XY0, skip if Vx ≠ Vy -/
  | sneReg (x y : RegIndex)
  /-- ANNN, load I -/
  | ldI (nnn : Address)
  /-- BNNN, jump to V0 + NNN -/
  | jpV0 (nnn : Address)
  /-- CXNN, masked random byte -/
  | rnd (x : RegIndex) (nn : Byte)
  /-- DXYN, draw an N-row sprite -/
  | drw (x y : RegIndex) (n : Fin 16)
  /-- FX07, read the delay timer -/
  | ldVxDt (x : RegIndex)
  /-- FX0A, wait for a key -/
  | ldVxKey (x : RegIndex)
  /-- FX15, set the delay timer -/
  | ldDtVx (x : RegIndex)
  /-- FX18, set the sound timer -/
  | ldStVx (x : RegIndex)
  /-- FX1E, add to I -/
  | addI (x : RegIndex)
  /-- FX29, point I at a glyph -/
  | ldFont (x : RegIndex)
  /-- FX33, store BCD -/
  | bcd (x : RegIndex)
  /-- FX55, store V0..Vx -/
  | storeRegs (x : RegIndex)
  /-- FX65, load V0..Vx -/
  | loadRegs (x : RegIndex)
  deriving DecidableEq, Repr

/-- Why a decoder refuses: the rows of the table of illegal words (spec/30_encoding.md R97), and a byte string too short
to hold an instruction word. On the machine each row of R97 raises `DecodeFailure` (spec/60_exceptions.md R222). -/
inductive DecodeReject where
  /-- 0x0000 to 0x0FFF except 0x00E0 and 0x00EE -/
  | family0
  /-- 0x4000 to 0x4FFF -/
  | family4
  /-- 0x5000 to 0x5FFF -/
  | family5
  /-- 0x8XY8 to 0x8XYD and 0x8XYF -/
  | family8
  /-- 0x9XY1 to 0x9XYF -/
  | family9
  /-- 0xE000 to 0xEFFF -/
  | familyE
  /-- 0xFXNN with NN not one of the nine low bytes -/
  | familyF
  /-- fewer than two bytes -/
  | truncated
  deriving DecidableEq, Repr

end Sys2Proof
end

