-- ==== Sys2Proof/WellFormed.lean ====
section
/-! DEFINITION. The opcode table of spec/30_encoding.md R94 as data, and the check that a word is legal: some row's masked
match holds. An `Instr` needs no check of its own, since its field types admit exactly the values of R93; what can be
ill-formed is a word (R97). The decoder (Decode.lean) follows the procedure of R95 instead of this table. -/

namespace Sys2Proof

/-- A row of R94: the pattern name, the mask and the match value. -/
structure OpcodeRow where
  pattern : String
  mask    : Word
  value   : Word
  deriving DecidableEq, Repr

/-- "An instruction word `op` is the instruction of a row exactly when `op & mask == match`" (R94). -/
def OpcodeRow.covers (r : OpcodeRow) (op : Word) : Bool := op &&& r.mask == r.value

/-- The rows of families 0 to 7. -/
def opcodeTableLow : List OpcodeRow :=
  [⟨"00E0", 0xFFFF, 0x00E0⟩, ⟨"00EE", 0xFFFF, 0x00EE⟩, ⟨"1NNN", 0xF000, 0x1000⟩, ⟨"2NNN", 0xF000, 0x2000⟩,
   ⟨"3XNN", 0xF000, 0x3000⟩, ⟨"6XNN", 0xF000, 0x6000⟩, ⟨"7XNN", 0xF000, 0x7000⟩]

/-- The rows of family 8. -/
def opcodeTableAlu : List OpcodeRow :=
  [⟨"8XY0", 0xF00F, 0x8000⟩, ⟨"8XY1", 0xF00F, 0x8001⟩, ⟨"8XY2", 0xF00F, 0x8002⟩, ⟨"8XY3", 0xF00F, 0x8003⟩,
   ⟨"8XY4", 0xF00F, 0x8004⟩, ⟨"8XY5", 0xF00F, 0x8005⟩, ⟨"8XY6", 0xF00F, 0x8006⟩, ⟨"8XY7", 0xF00F, 0x8007⟩,
   ⟨"8XYE", 0xF00F, 0x800E⟩]

/-- The rows of families 9 to D. -/
def opcodeTableHigh : List OpcodeRow :=
  [⟨"9XY0", 0xF00F, 0x9000⟩, ⟨"ANNN", 0xF000, 0xA000⟩, ⟨"BNNN", 0xF000, 0xB000⟩, ⟨"CXNN", 0xF000, 0xC000⟩,
   ⟨"DXYN", 0xF000, 0xD000⟩]

/-- The rows of family F. -/
def opcodeTableF : List OpcodeRow :=
  [⟨"FX07", 0xF0FF, 0xF007⟩, ⟨"FX0A", 0xF0FF, 0xF00A⟩, ⟨"FX15", 0xF0FF, 0xF015⟩, ⟨"FX18", 0xF0FF, 0xF018⟩,
   ⟨"FX1E", 0xF0FF, 0xF01E⟩, ⟨"FX29", 0xF0FF, 0xF029⟩, ⟨"FX33", 0xF0FF, 0xF033⟩, ⟨"FX55", 0xF0FF, 0xF055⟩,
   ⟨"FX65", 0xF0FF, 0xF065⟩]

/-- The complete opcode table, 30 rows (R94). -/
def opcodeTable : List OpcodeRow := opcodeTableLow ++ opcodeTableAlu ++ opcodeTableHigh ++ opcodeTableF

/-- A word is legal when some row covers it (R94, R97). -/
def legalWord (op : Word) : Bool := opcodeTable.any (fun r => r.covers op)

/-- The pattern name of an instruction: the mnemonic of its row (R99). -/
def Instr.pattern : Instr → String
  | .cls => "00E0"
  | .ret => "00EE"
  | .jp _ => "1NNN"
  | .call _ => "2NNN"
  | .seImm _ _ => "3XNN"
  | .ldImm _ _ => "6XNN"
  | .addImm _ _ => "7XNN"
  | .ldReg _ _ => "8XY0"
  | .orReg _ _ => "8XY1"
  | .andReg _ _ => "8XY2"
  | .xorReg _ _ => "8XY3"
  | .addReg _ _ => "8XY4"
  | .subReg _ _ => "8XY5"
  | .shr _ _ => "8XY6"
  | .subnReg _ _ => "8XY7"
  | .shl _ _ => "8XYE"
  | .sneReg _ _ => "9XY0"
  | .ldI _ => "ANNN"
  | .jpV0 _ => "BNNN"
  | .rnd _ _ => "CXNN"
  | .drw _ _ _ => "DXYN"
  | .ldVxDt _ => "FX07"
  | .ldVxKey _ => "FX0A"
  | .ldDtVx _ => "FX15"
  | .ldStVx _ => "FX18"
  | .addI _ => "FX1E"
  | .ldFont _ => "FX29"
  | .bcd _ => "FX33"
  | .storeRegs _ => "FX55"
  | .loadRegs _ => "FX65"

end Sys2Proof
end

