-- ==== Sys2Proof/Decode.lean ====
section
/-! DEFINITION. The decoder, by the procedure of spec/30_encoding.md R95, and after it the encoder, from the formats of
R92 and the opcode table of R94. -/

namespace Sys2Proof

/-- `T = op[15:12]` (R91). -/
def fieldT (op : Word) : BitVec 4 := op.extractLsb' 12 4
/-- `X = op[11:8]` (R91). -/
def fieldX (op : Word) : RegIndex := (op.extractLsb' 8 4).toFin
/-- `Y = op[7:4]` (R91). -/
def fieldY (op : Word) : RegIndex := (op.extractLsb' 4 4).toFin
/-- `N = op[3:0]` (R91). -/
def fieldN (op : Word) : Fin 16 := (op.extractLsb' 0 4).toFin
/-- `NN = op[7:0]` (R91). -/
def fieldNN (op : Word) : Byte := op.extractLsb' 0 8
/-- `NNN = op[11:0]` (R91). -/
def fieldNNN (op : Word) : Address := op.extractLsb' 0 12

/-- Family 0 needs all sixteen bits (R95). -/
def decodeFamily0 (op : Word) : Except DecodeReject Instr :=
  if op = 0x00E0#16 then .ok .cls
  else if op = 0x00EE#16 then .ok .ret
  else .error .family0

/-- Family 8 by the low nibble (R95). -/
def decodeFamily8 (op : Word) : Except DecodeReject Instr :=
  match fieldN op with
  | 0x0 => .ok (.ldReg (fieldX op) (fieldY op))
  | 0x1 => .ok (.orReg (fieldX op) (fieldY op))
  | 0x2 => .ok (.andReg (fieldX op) (fieldY op))
  | 0x3 => .ok (.xorReg (fieldX op) (fieldY op))
  | 0x4 => .ok (.addReg (fieldX op) (fieldY op))
  | 0x5 => .ok (.subReg (fieldX op) (fieldY op))
  | 0x6 => .ok (.shr (fieldX op) (fieldY op))
  | 0x7 => .ok (.subnReg (fieldX op) (fieldY op))
  | 0xE => .ok (.shl (fieldX op) (fieldY op))
  | _ => .error .family8

/-- Family F by the low byte (R95). -/
def decodeFamilyF (op : Word) : Except DecodeReject Instr :=
  match fieldNN op with
  | 0x07#8 => .ok (.ldVxDt (fieldX op))
  | 0x0A#8 => .ok (.ldVxKey (fieldX op))
  | 0x15#8 => .ok (.ldDtVx (fieldX op))
  | 0x18#8 => .ok (.ldStVx (fieldX op))
  | 0x1E#8 => .ok (.addI (fieldX op))
  | 0x29#8 => .ok (.ldFont (fieldX op))
  | 0x33#8 => .ok (.bcd (fieldX op))
  | 0x55#8 => .ok (.storeRegs (fieldX op))
  | 0x65#8 => .ok (.loadRegs (fieldX op))
  | _ => .error .familyF

/-- The decode procedure of R95, total on the 65536 words. It reads nothing but the word (spec/40_cycle.md R125). -/
def decode (op : Word) : Except DecodeReject Instr :=
  match fieldT op with
  | 0x0#4 => decodeFamily0 op
  | 0x1#4 => .ok (.jp (fieldNNN op))
  | 0x2#4 => .ok (.call (fieldNNN op))
  | 0x3#4 => .ok (.seImm (fieldX op) (fieldNN op))
  | 0x4#4 => .error .family4
  | 0x5#4 => .error .family5
  | 0x6#4 => .ok (.ldImm (fieldX op) (fieldNN op))
  | 0x7#4 => .ok (.addImm (fieldX op) (fieldNN op))
  | 0x8#4 => decodeFamily8 op
  | 0x9#4 => if fieldN op = 0 then .ok (.sneReg (fieldX op) (fieldY op)) else .error .family9
  | 0xA#4 => .ok (.ldI (fieldNNN op))
  | 0xB#4 => .ok (.jpV0 (fieldNNN op))
  | 0xC#4 => .ok (.rnd (fieldX op) (fieldNN op))
  | 0xD#4 => .ok (.drw (fieldX op) (fieldY op) (fieldN op))
  | 0xE#4 => .error .familyE
  | _ => decodeFamilyF op

/-- The big-endian word of two bytes: the byte at the lower address in bits 15:8 (spec/20_memory.md R64). -/
def bigEndian (hi lo : Byte) : Word := hi ++ lo

/-- The two bytes of a word in the order memory holds them, the lower address first (R64). -/
def wordBytes (op : Word) : List Byte := [op.extractLsb' 8 8, op.extractLsb' 0 8]

/-- The decoder on a byte string, total: the instruction and the bytes after it. Every instruction is two bytes (R90). -/
def decodeBytes : List Byte → Except DecodeReject (Instr × List Byte)
  | hi :: lo :: rest =>
    match decode (bigEndian hi lo) with
    | .ok i => .ok (i, rest)
    | .error r => .error r
  | _ => .error .truncated

/-- The decoder on a row of spec/opcode_table.json: the low `nbits` bits of `w` are the word's bits as the table numbers
them, every bit above is 0; the word is laid out big-endian and given to `decodeBytes`. -/
def decodeTableWord (nbits w : Nat) : Option Instr :=
  match decodeBytes (wordBytes (BitVec.ofNat 16 (w % 2 ^ nbits))) with
  | .ok (i, _) => some i
  | .error _ => none

/-- The nibble of a register field. -/
def regNibble (x : RegIndex) : BitVec 4 := BitVec.ofFin x

/-- Format `A`: `T[15:12] NNN[11:0]` (R92). -/
def formatA (t : BitVec 4) (nnn : Address) : Word := t ++ nnn
/-- Format `XI`: `T[15:12] X[11:8] NN[7:0]` (R92); format `Xf` is the same with a fixed low byte. -/
def formatXI (t : BitVec 4) (x : RegIndex) (nn : Byte) : Word := t ++ regNibble x ++ nn
/-- Formats `XYf` and `XYN`: `T[15:12] X[11:8] Y[7:4] N[3:0]` (R92). -/
def formatXYN (t : BitVec 4) (x y : RegIndex) (n : BitVec 4) : Word := t ++ regNibble x ++ regNibble y ++ n

/-- The word of an instruction (R92, R94). -/
def encode : Instr → Word
  | .cls => 0x00E0#16
  | .ret => 0x00EE#16
  | .jp nnn => formatA 0x1#4 nnn
  | .call nnn => formatA 0x2#4 nnn
  | .seImm x nn => formatXI 0x3#4 x nn
  | .ldImm x nn => formatXI 0x6#4 x nn
  | .addImm x nn => formatXI 0x7#4 x nn
  | .ldReg x y => formatXYN 0x8#4 x y 0x0#4
  | .orReg x y => formatXYN 0x8#4 x y 0x1#4
  | .andReg x y => formatXYN 0x8#4 x y 0x2#4
  | .xorReg x y => formatXYN 0x8#4 x y 0x3#4
  | .addReg x y => formatXYN 0x8#4 x y 0x4#4
  | .subReg x y => formatXYN 0x8#4 x y 0x5#4
  | .shr x y => formatXYN 0x8#4 x y 0x6#4
  | .subnReg x y => formatXYN 0x8#4 x y 0x7#4
  | .shl x y => formatXYN 0x8#4 x y 0xE#4
  | .sneReg x y => formatXYN 0x9#4 x y 0x0#4
  | .ldI nnn => formatA 0xA#4 nnn
  | .jpV0 nnn => formatA 0xB#4 nnn
  | .rnd x nn => formatXI 0xC#4 x nn
  | .drw x y n => formatXYN 0xD#4 x y (regNibble n)
  | .ldVxDt x => formatXI 0xF#4 x 0x07#8
  | .ldVxKey x => formatXI 0xF#4 x 0x0A#8
  | .ldDtVx x => formatXI 0xF#4 x 0x15#8
  | .ldStVx x => formatXI 0xF#4 x 0x18#8
  | .addI x => formatXI 0xF#4 x 0x1E#8
  | .ldFont x => formatXI 0xF#4 x 0x29#8
  | .bcd x => formatXI 0xF#4 x 0x33#8
  | .storeRegs x => formatXI 0xF#4 x 0x55#8
  | .loadRegs x => formatXI 0xF#4 x 0x65#8

end Sys2Proof
end

