-- ==== Sys2Proof/Config.lean ====
section
/-! DEFINITION. What is fixed for a machine or chosen by its host: the two open parameters of spec/00_scope.md R6 and
the free inputs of each step (R11). Each is an opaque constant: no proof can see a value of it, so a statement about it
holds whatever it is. -/

namespace Sys2Proof

/-- The open parameter `FONT_ROM`, the 80 bytes at 0x000 to 0x04F (spec/20_memory.md R63, decision D15; log entry 5). -/
opaque Config.fontRom : Vector Byte 80

/-- The open parameter `TIMERS_RUN_WHILE_WAITING` (spec/40_cycle.md R123, decision D3; log entry 6). -/
opaque Config.timersRunWhileWaiting : Bool

/-- The keypad snapshot the host gives the `n`-th step, bit `k` set when key `k` is pressed (spec/10_state.md R35; log
entry 2). -/
opaque Config.keypad : Nat → BitVec 16

/-- The random byte `rnd` the host gives the `n`-th step, under no law (spec/45_timer_random.md R190, D17; log entry 2). -/
opaque Config.rnd : Nat → Byte

/-- Whether the host issues `AckDirty` between the step before the `n`-th and the `n`-th (spec/60_exceptions.md R236,
R238; log entry 3). -/
opaque Config.acksDirty : Nat → Bool

/-- The default of `FONT_ROM`, from general knowledge and not from the source (R63). The machine never uses it: a claim
about glyph pixels takes `Config.fontRom = Config.fontRomDefault` as a premise. -/
def Config.fontRomDefault : Vector Byte 80 :=
  (#v[0xF0, 0x90, 0x90, 0x90, 0xF0,  0x20, 0x60, 0x20, 0x20, 0x70,
      0xF0, 0x10, 0xF0, 0x80, 0xF0,  0xF0, 0x10, 0xF0, 0x10, 0xF0,
      0x90, 0x90, 0xF0, 0x10, 0x10,  0xF0, 0x80, 0xF0, 0x10, 0xF0,
      0xF0, 0x80, 0xF0, 0x90, 0xF0,  0xF0, 0x10, 0x20, 0x40, 0x40] : Vector Byte 40) ++
  (#v[0xF0, 0x90, 0xF0, 0x90, 0xF0,  0xF0, 0x90, 0xF0, 0x10, 0xF0,
      0xF0, 0x90, 0xF0, 0x90, 0x90,  0xE0, 0x90, 0xE0, 0x90, 0xE0,
      0xF0, 0x80, 0x80, 0x80, 0xF0,  0xE0, 0x90, 0x90, 0x90, 0xE0,
      0xF0, 0x80, 0xF0, 0x80, 0xF0,  0xF0, 0x80, 0xF0, 0x80, 0x80] : Vector Byte 40)

end Sys2Proof
end

