-- ==== Sys2Proof/Machine/State.lean ====
section
/-! DEFINITION. The state of the core (spec/10_state.md R20 to R38), the reasons a step can stop, and the state after
reset (R40). -/

namespace Sys2Proof.Machine

/-- Main memory as the listed cells, addresses strictly rising, no cell equal to what an unlisted address reads as
(`Memory.initialByte`, the reset contents of spec/20_memory.md R61). -/
abbrev Memory := List Host.Cell

/-- The framebuffer: 32 rows of 64 one-bit pixels, `fb[row][col]` (R29). -/
abbrev Framebuffer := Vector (Vector Bool 64) 32

/-- Everything the spec gives the core, and last the model's own two fields (log entry 4). -/
structure State where
  /-- the general registers `V[0]` to `V[15]` (R20); `V[15]` is VF (R21) -/
  v : Vector Byte 16
  /-- the index register `I` (R23) -/
  i : Word
  /-- the program counter (R22) -/
  pc : Word
  /-- the return-address stack (R24) -/
  stack : Vector Word 16
  /-- the stack pointer, the number of return addresses held, 0 to 16 (R25; log entry 7) -/
  sp : Fin 17
  /-- the delay timer `DT` (R26) -/
  dt : Byte
  /-- the sound timer `ST` (R27) -/
  st : Byte
  /-- main memory (R28) -/
  mem : Memory
  /-- the framebuffer (R29) -/
  fb : Framebuffer
  /-- the dirty flag (R30) -/
  dirty : Bool
  /-- the latched keypad flags, `keys[k]` is bit `k` (R31) -/
  keys : BitVec 16
  /-- the latch of the wait state: false is RUNNING, true is WAITING_FOR_KEY (R32) -/
  waiting : Bool
  /-- the destination register of the key waited for (R33) -/
  keyReg : RegIndex
  /-- the halt latch (R36) -/
  halted : Bool
  /-- the cause code of the fatal condition, 0 for none (R37) -/
  faultCause : BitVec 3
  /-- `pc` at the start of the faulting step (R37) -/
  faultPc : Word
  /-- the fetched word of the faulting step, 0 for a fetch fault (R37) -/
  faultOpcode : Word
  /-- `sp` at the start of the faulting step (R37) -/
  faultSp : Fin 17
  /-- the model's own: this step's random byte `rnd` (R35), latched for the meanings (log entry 4) -/
  rndIn : Byte
  /-- the model's own: how often the host has invoked the step; it indexes the host's free inputs (log entry 4) -/
  stepIndex : Nat
  deriving DecidableEq, Repr

/-- What the host gives one step, and whether it acknowledged `dirty` just before (spec/60_exceptions.md R236). -/
structure HostInput where
  /-- the keypad snapshot, bit `k` for key `k` -/
  keypad : BitVec 16
  /-- the random byte -/
  rnd : Byte
  /-- whether `AckDirty` came between the step before and this one -/
  ack : Bool
  deriving DecidableEq, Repr

/-- The five fatal conditions (spec/60_exceptions.md R221). Entering one is a NEXT state with `halted` set (R224,
`State.raise`), so no step answers `.fault`: safe, since nothing is left out (log entry 1). -/
inductive Fault where
  /-- raised by the decode of a word that is no instruction (R222); a halted next state, safe -/
  | decodeFailure
  /-- raised by 2NNN at `sp = 16` (R223); a halted next state, safe -/
  | stackOverflow
  /-- raised by 00EE at `sp = 0` (R225); a halted next state, safe -/
  | stackUnderflow
  /-- raised by the fetch, DXYN, FX33, FX55 and FX65 at an address above 0xFFF (R226); a halted next state, safe -/
  | addressOutOfRange
  /-- raised by FX33 and FX55 at an address below 0x200 (R227); a halted next state, safe -/
  | fontRegionWrite
  deriving DecidableEq, Repr

/-- Reasons a step has no meaning. No step answers one: every instruction is modelled. -/
inductive Refusal where
  /-- raised by an arm of `exec` for an instruction not modelled yet; no arm does; safe -/
  | notModelled (mnemonic : String)
  deriving DecidableEq, Repr

/-- The state after reset (R40, spec/70_reset_and_hazards.md R251), before the host's load: memory lists nothing, so it
reads as its reset contents. The last two fields are the model's own (log entry 4). -/
def State.reset : State where
  v := Vector.replicate 16 0
  i := 0
  pc := 0x200
  stack := Vector.replicate 16 0
  sp := 0
  dt := 0
  st := 0
  mem := []
  fb := Vector.replicate 32 (Vector.replicate 64 false)
  dirty := false
  keys := 0
  waiting := false
  keyReg := 0
  halted := false
  faultCause := 0
  faultPc := 0
  faultOpcode := 0
  faultSp := 0
  rndIn := 0
  stepIndex := 0

end Sys2Proof.Machine
end

