-- ==== Sys2Proof/Machine/Ops.lean ====
section
/-! DEFINITION. The named operations over memory and the registers, and the entry of a fatal condition. -/

namespace Sys2Proof.Machine

/-- `zext_16` of a byte or of a 12-bit address (spec/00_scope.md R7). -/
def zext16 {n : Nat} (b : BitVec n) : Word := b.setWidth 16

/-! ### Memory (spec/20_memory.md R60 to R70) -/

/-- The reset contents of an address: the font at 0x000 to 0x04F, 0 everywhere else (R61, spec/10_state.md R40). -/
def Memory.initialByte (a : Nat) : Byte := if h : a < 80 then Config.fontRom[a] else 0

/-- The byte at an address; an unlisted address reads as its reset contents. -/
def Memory.read : Memory → Nat → Byte
  | [], a => Memory.initialByte a
  | (k, b) :: m, a => if k = a then b else Memory.read m a

/-- Take every cell of an address out of the list. -/
def Memory.erase : Memory → Nat → Memory
  | [], _ => []
  | (k, c) :: m, a => if k = a then Memory.erase m a else (k, c) :: Memory.erase m a

/-- List a cell in its place, in front of the first larger address. -/
def Memory.put : Memory → Nat → Byte → Memory
  | [], a, b => [(a, b)]
  | (k, c) :: m, a, b =>
    if a < k then (a, b) :: (k, c) :: m
    else if k = a then (a, b) :: m
    else (k, c) :: Memory.put m a b

/-- Write one byte, keeping the canonical form: writing what an unlisted address reads as removes the cell. -/
def Memory.set (m : Memory) (a : Nat) (b : Byte) : Memory :=
  if b = Memory.initialByte a then m.erase a else m.put a b

/-- Every cell lies above `lo`, the addresses rise strictly, and no cell holds what an unlisted address reads as. -/
def Memory.wfAbove : Nat → Memory → Bool
  | _, [] => true
  | lo, (k, b) :: m => decide (lo ≤ k) && b != Memory.initialByte k && Memory.wfAbove (k + 1) m

/-- The canonical form of memory: equal memories are equal lists. -/
def Memory.wf (m : Memory) : Bool := Memory.wfAbove 0 m

/-- Every listed cell lies in the writable range 0x200 to 0xFFF, so the font region reads as at reset (R61, R68). -/
def Memory.inRam (m : Memory) : Bool := m.all (fun c => decide (0x200 ≤ c.1 ∧ c.1 ≤ 0xFFF))

/-- Write bytes at ascending addresses. -/
def Memory.store (m : Memory) (a : Nat) : List Byte → Memory
  | [] => m
  | b :: bs => Memory.store (m.set a b) (a + 1) bs

/-- Read `n` bytes at ascending addresses. -/
def Memory.load (m : Memory) (a : Nat) : Nat → List Byte
  | 0 => []
  | n + 1 => m.read a :: Memory.load m (a + 1) n

/-- The fault of reading `n` bytes from `a` upward: `AddressOutOfRange` if one of them lies above 0xFFF (R67). Addresses
are naturals and never wrap (R69). -/
def readFault (a n : Nat) : Option Fault :=
  if 0 < n ∧ a + n - 1 > 0xFFF then some .addressOutOfRange else none

/-- The fault of writing `n` bytes from `a` upward, all addresses checked before any write: `AddressOutOfRange` first, then
`FontRegionWrite` (R68). -/
def writeFault (a n : Nat) : Option Fault :=
  if 0 < n ∧ a + n - 1 > 0xFFF then some .addressOutOfRange
  else if 0 < n ∧ a < 0x200 then some .fontRegionWrite
  else none

/-! ### Registers -/

/-- `V[x] <- b`. -/
def State.setV (s : State) (x : RegIndex) (b : Byte) : State := { s with v := s.v.set x b }

/-- Replace the whole register file (FX65). -/
def State.setVs (s : State) (v : Vector Byte 16) : State := { s with v := v }

/-- `I <- w`. -/
def State.setI (s : State) (w : Word) : State := { s with i := w }

/-- `pc <- w`. -/
def State.setPc (s : State) (w : Word) : State := { s with pc := w }

/-- `pc <- pc + 2`, the advance of an instruction that does not transfer control (spec/40_cycle.md R126). -/
def State.advance (s : State) : State := s.setPc (s.pc + 2)

/-- `DT <- b`. -/
def State.setDt (s : State) (b : Byte) : State := { s with dt := b }

/-- `ST <- b`. -/
def State.setSt (s : State) (b : Byte) : State := { s with st := b }

/-- Store bytes from address `a` upward. -/
def State.storeBytes (s : State) (a : Nat) (bs : List Byte) : State := { s with mem := s.mem.store a bs }

/-- A new picture; `dirty` is set by every draw and clear (spec/10_state.md R30). -/
def State.show (s : State) (fb : Framebuffer) : State := { s with fb := fb, dirty := true }

/-- `stack[sp] <- a; sp <- sp + 1`, for `sp` below 16 (spec/10_state.md R25). -/
def State.push (s : State) (a : Word) : State :=
  if h : s.sp.val < 16 then { s with stack := s.stack.set s.sp.val a, sp := ⟨s.sp.val + 1, by omega⟩ } else s

/-- The address on top of the stack, `stack[sp - 1]`, for `sp` above 0. -/
def State.top (s : State) : Word := s.stack[s.sp.val - 1]

/-- `sp <- sp - 1`; the popped entry stays in `stack` (spec/41_control_flow.md R140). -/
def State.drop (s : State) : State := { s with sp := ⟨s.sp.val - 1, by omega⟩ }

/-- Enter WAITING_FOR_KEY for register `x` (spec/46_keypad.md R200). -/
def State.enterWait (s : State) (x : RegIndex) : State := { s with waiting := true, keyReg := x }

/-- Leave WAITING_FOR_KEY (spec/46_keypad.md R202). -/
def State.leaveWait (s : State) : State := { s with waiting := false }

/-! ### The parts of a step around the instruction (spec/40_cycle.md R121 to R123) -/

/-- A down counter that saturates at 0 (R123). -/
def countDown (t : Byte) : Byte := if t = 0 then 0 else t - 1

/-- `TimerTick()` (R123). -/
def State.tick (s : State) : State := { s with dt := countDown s.dt, st := countDown s.st }

/-- `TimerTick()` of a WAITING_FOR_KEY step, performed if the parameter says so (R121 item 3, R123). -/
def State.tickIf (s : State) (p : Bool) : State :=
  { s with dt := bif p then countDown s.dt else s.dt, st := bif p then countDown s.st else s.st }

/-- Latch the step's inputs: the snapshot replaces `keys` entirely (R122), and the random byte is held for the step. -/
def State.latch (s : State) (inp : HostInput) : State := { s with keys := inp.keypad, rndIn := inp.rnd }

/-- What the host did between the step before and this one: `AckDirty` clears `dirty` (spec/60_exceptions.md R238), and one
more step is invoked. -/
def State.between (s : State) (ack : Bool) : State :=
  { s with dirty := s.dirty && !ack, stepIndex := s.stepIndex + 1 }

/-! ### Fatal conditions (spec/60_exceptions.md R220 to R230) -/

/-- The cause codes of R221. -/
def Fault.code : Fault → BitVec 3
  | .decodeFailure => 1
  | .stackOverflow => 2
  | .stackUnderflow => 3
  | .addressOutOfRange => 4
  | .fontRegionWrite => 5

/-- Fault entry (R224): `halted` and the four diagnostic registers are written and nothing else. `s` is the state before
the instruction, after this step's latch and timer tick; `op` is the fetched word, 0 for a fetch fault. There is no
return from it (R230). -/
def State.raise (s : State) (f : Fault) (op : Word) : State :=
  { s with halted := true, faultCause := f.code, faultPc := s.pc, faultOpcode := op, faultSp := s.sp }

/-- An instruction that may fault: its effect `t` if no check failed, else the fault entry from `s` with none of its
effect (R224). `i` is the instruction, whose word is the one fetched (log entry 8). -/
def finish (check : Option Fault) (i : Instr) (s t : State) : Host.Outcome State Fault Refusal :=
  match check with
  | none => .next t
  | some f => .next (s.raise f (encode i))

end Sys2Proof.Machine
end

