-- ==== Sys2Proof/Machine/Operands.lean ====
section
/-! DEFINITION. Operand forms: registers, immediates, the index addressing mode, the blocks FX55, FX65 and DXYN move. -/

namespace Sys2Proof.Machine

/-- `V[x]`, held before the instruction (spec/00_scope.md R8, R9). -/
def State.reg (s : State) (x : RegIndex) : Byte := s.v[x]

/-- VF, the flag register `V[15]` (spec/10_state.md R21). -/
def vf : RegIndex := 15

/-- The effective address `I + k`, an unbounded natural that never wraps (spec/20_memory.md R69). -/
def State.ea (s : State) (k : Nat) : Nat := s.i.toNat + k

/-- The bytes `V[0]` to `V[x]`, x included (spec/43_index_memory.md R174). -/
def State.regBlock (s : State) (x : RegIndex) : List Byte := s.v.toList.take (x.val + 1)

/-- The register file after `V[k] <- mem[I + k]` for k from 0 to x; the registers above x keep their values
(spec/43_index_memory.md R175). -/
def State.loadedRegs (s : State) (x : RegIndex) : Vector Byte 16 :=
  Vector.ofFn fun k : Fin 16 => if k ≤ x then s.mem.read (s.ea k.val) else s.reg k

/-- The sprite of DXYN: `n` bytes from `I` upward, the top row first (spec/44_display.md R182). -/
def State.sprite (s : State) (n : Fin 16) : List Byte := s.mem.load (s.ea 0) n.val

/-- `pc` after a conditional skip: `pc + 4` if it is taken, else `pc + 2` (spec/40_cycle.md R126). -/
def State.skipIf (s : State) (c : Bool) : State := s.setPc (if c then s.pc + 4 else s.pc + 2)

end Sys2Proof.Machine
end

