-- ==== Sys2Proof/Machine/Flags.lean ====
section
/-! DEFINITION. The 8-bit arithmetic of spec/42_load_alu.md R162 and the flag of each instruction that writes VF
(spec/10_state.md R21): computed in naturals, narrowed at the end. -/

namespace Sys2Proof.Machine

/-- A flag as a byte: 0 or 1, zero-extended (spec/10_state.md R21). -/
def flagByte (c : Bool) : Byte := if c then 1 else 0

/-- `(a + b) mod 256` (R162). -/
def addByte (a b : Byte) : Byte := BitVec.ofNat 8 (a.toNat + b.toNat)

/-- Carry of `a + b`: the sum exceeds 255 (R162). -/
def carry (a b : Byte) : Bool := decide (a.toNat + b.toNat > 255)

/-- `(a - b) mod 256`: `a - b` if `a ≥ b`, else `256 + a - b` (R162). -/
def subByte (a b : Byte) : Byte := BitVec.ofNat 8 (256 + a.toNat - b.toNat)

/-- The no-borrow flag of `a - b`: 1 iff `a ≥ b` (R162). -/
def noBorrow (a b : Byte) : Bool := decide (b.toNat ≤ a.toNat)

/-- `a >> 1` (R162). -/
def shrByte (a : Byte) : Byte := BitVec.ofNat 8 (a.toNat / 2)

/-- The bit a right shift drops: bit 0 (spec/42_load_alu.md R159). -/
def shrFlag (a : Byte) : Bool := a.getLsbD 0

/-- `(a << 1) mod 256` (R162). -/
def shlByte (a : Byte) : Byte := BitVec.ofNat 8 (2 * a.toNat)

/-- The bit a left shift drops: bit 7 (spec/42_load_alu.md R161). -/
def shlFlag (a : Byte) : Bool := a.getLsbD 7

/-- Write a result to `V[x]` and a flag to VF, the flag last: at x = 15 the flag is kept and the result discarded
(spec/42_load_alu.md R150). -/
def State.setResult (s : State) (x : RegIndex) (r : Byte) (c : Bool) : State := (s.setV x r).setV vf (flagByte c)

end Sys2Proof.Machine
end

