-- ==== Sys2Proof/Machine/Control.lean ====
section
/-! DEFINITION. Control transfer: 00EE, 1NNN, 2NNN, 3XNN, 9XY0, BNNN (spec/41_control_flow.md). -/

namespace Sys2Proof.Machine

/-- 00EE (R140): pop the return address into `pc`; `StackUnderflow` at `sp = 0`. -/
def execRet (s : State) : Host.Outcome State Fault Refusal :=
  finish (if s.sp.val = 0 then some .stackUnderflow else none) .ret s (s.drop.setPc s.top)

/-- 1NNN (R141): `pc <- NNN`. -/
def execJp (nnn : Address) (s : State) : Host.Outcome State Fault Refusal := .next (s.setPc (zext16 nnn))

/-- 2NNN (R142): push `pc + 2`, then `pc <- NNN`; `StackOverflow` at `sp = 16`. -/
def execCall (nnn : Address) (s : State) : Host.Outcome State Fault Refusal :=
  finish (if s.sp.val = 16 then some .stackOverflow else none) (.call nnn) s
    ((s.push (s.pc + 2)).setPc (zext16 nnn))

/-- 3XNN (R143): skip if `V[X] = NN`. -/
def execSeImm (x : RegIndex) (nn : Byte) (s : State) : Host.Outcome State Fault Refusal :=
  .next (s.skipIf (s.reg x == nn))

/-- 9XY0 (R144): skip if `V[X] ≠ V[Y]`. -/
def execSneReg (x y : RegIndex) (s : State) : Host.Outcome State Fault Refusal :=
  .next (s.skipIf (s.reg x != s.reg y))

/-- BNNN (R145): `pc <- NNN + V0`, 16 bits, not reduced modulo 4096. -/
def execJpV0 (nnn : Address) (s : State) : Host.Outcome State Fault Refusal :=
  .next (s.setPc (zext16 nnn + zext16 (s.reg 0)))

end Sys2Proof.Machine
end

