-- ==== Sys2Proof/Machine/Display.lean ====
section
/-! DEFINITION. The display: 00E0 and DXYN (spec/44_display.md). -/

namespace Sys2Proof.Machine

/-- The framebuffer with every pixel 0. -/
def blankScreen : Framebuffer := Vector.replicate 32 (Vector.replicate 64 false)

/-- 00E0 (R180): `dirty` is set even if nothing was lit. -/
def execCls (s : State) : Host.Outcome State Fault Refusal := .next (s.show blankScreen).advance

/-- A draw in progress: the framebuffer and the collision so far (R181). -/
structure Drawing where
  fb        : Framebuffer
  collision : Bool
  deriving DecidableEq, Repr

/-- The pixel at a row and a column, both taken modulo the screen (R181: coordinates wrap modulo 64 and 32). -/
def pixelAt (fb : Framebuffer) (row col : Nat) : Bool :=
  (fb[row % 32]'(Nat.mod_lt _ (by decide)))[col % 64]'(Nat.mod_lt _ (by decide))

/-- The framebuffer with one pixel written. -/
def setPixel (fb : Framebuffer) (row col : Nat) (p : Bool) : Framebuffer :=
  fb.set (row % 32) ((fb[row % 32]'(Nat.mod_lt _ (by decide))).set (col % 64) p (Nat.mod_lt _ (by decide)))
    (Nat.mod_lt _ (by decide))

/-- One pixel of a draw: exclusive or, and a collision when a set bit meets a set pixel (R181). -/
def Drawing.plot (d : Drawing) (row col : Nat) (bit : Bool) : Drawing :=
  { fb := setPixel d.fb row col (xor (pixelAt d.fb row col) bit)
    collision := d.collision || (bit && pixelAt d.fb row col) }

/-- The bit of a sprite byte at column c: bit 7 is the leftmost pixel (R182). -/
def spriteBit (b : Byte) (c : Nat) : Bool := b.getLsbD (7 - c)

/-- The columns 0 to 7 of one sprite row, left to right (R181). -/
def Drawing.row (d : Drawing) (row x0 : Nat) (b : Byte) : Drawing :=
  (List.range 8).foldl (fun d c => d.plot row (x0 + c) (spriteBit b c)) d

/-- The rows of a sprite from screen row `row` downward, top to bottom (R181). -/
def Drawing.rows (d : Drawing) (row x0 : Nat) : List Byte → Drawing
  | [] => d
  | b :: bs => Drawing.rows (d.row row x0 b) (row + 1) x0 bs

/-- The draw of DXYN: the sprite at column `V[X]`, row `V[Y]`, both sampled before VF is written (R181). -/
def State.draw (s : State) (x y : RegIndex) (n : Fin 16) : Drawing :=
  Drawing.rows ⟨s.fb, false⟩ (s.reg y).toNat (s.reg x).toNat (s.sprite n)

/-- DXYN (R181): VF is the collision, `dirty` is set; `AddressOutOfRange` if a sprite byte lies above 0xFFF. -/
def execDrw (x y : RegIndex) (n : Fin 16) (s : State) : Host.Outcome State Fault Refusal :=
  finish (readFault (s.ea 0) n.val) (.drw x y n) s
    ((s.show (s.draw x y n).fb).setV vf (flagByte (s.draw x y n).collision)).advance

end Sys2Proof.Machine
end

