-- ==== Sys2Proof/Machine/IndexMemory.lean ====
section
/-! DEFINITION. The index register and memory: ANNN, FX1E, FX29, FX33, FX55, FX65 (spec/43_index_memory.md). -/

namespace Sys2Proof.Machine

/-- ANNN (R170). -/
def execLdI (nnn : Address) (s : State) : Host.Outcome State Fault Refusal := .next (s.setI (zext16 nnn)).advance

/-- FX1E (R171): modulo 65536, no flag. -/
def execAddI (x : RegIndex) (s : State) : Host.Outcome State Fault Refusal :=
  .next (s.setI (BitVec.ofNat 16 (s.i.toNat + (s.reg x).toNat))).advance

/-- FX29 (R172): the address of the glyph of the low nibble. -/
def execLdFont (x : RegIndex) (s : State) : Host.Outcome State Fault Refusal :=
  .next (s.setI (zext16 (s.reg x &&& 0x0F#8) * 5#16)).advance

/-- The decimal digits hundreds, tens, units of a byte, each the digit's value (R173). -/
def bcdDigits (b : Byte) : List Byte :=
  [BitVec.ofNat 8 (b.toNat / 100), BitVec.ofNat 8 (b.toNat / 10 % 10), BitVec.ofNat 8 (b.toNat % 10)]

/-- FX33 (R173): the three digits at `I`, `I+1`, `I+2`, all addresses checked first. -/
def execBcd (x : RegIndex) (s : State) : Host.Outcome State Fault Refusal :=
  finish (writeFault (s.ea 0) 3) (.bcd x) s (s.storeBytes (s.ea 0) (bcdDigits (s.reg x))).advance

/-- FX55 (R174): `V[0]` to `V[X]` at `I` to `I + X`, all addresses checked first; `I` unchanged. -/
def execStoreRegs (x : RegIndex) (s : State) : Host.Outcome State Fault Refusal :=
  finish (writeFault (s.ea 0) (x.val + 1)) (.storeRegs x) s (s.storeBytes (s.ea 0) (s.regBlock x)).advance

/-- FX65 (R175): `V[0]` to `V[X]` from `I` to `I + X`, all addresses checked first; `I` unchanged. -/
def execLoadRegs (x : RegIndex) (s : State) : Host.Outcome State Fault Refusal :=
  finish (readFault (s.ea 0) (x.val + 1)) (.loadRegs x) s (s.setVs (s.loadedRegs x)).advance

end Sys2Proof.Machine
end

