-- ==== Sys2Proof/Machine/Keypad.lean ====
section
/-! DEFINITION. The keypad wait: FX0A and the resolution of WAITING_FOR_KEY (spec/46_keypad.md). -/

namespace Sys2Proof.Machine

/-- FX0A (R200): enter WAITING_FOR_KEY and nothing else; `pc` does not advance and `keys` is not looked at. -/
def execLdVxKey (x : RegIndex) (s : State) : Host.Outcome State Fault Refusal := .next (s.enterWait x)

/-- The lowest pressed key, scanning 0 to 15 upward (R202). -/
def lowestKey (keys : BitVec 16) : Option RegIndex := (List.finRange 16).find? (fun k => keys.getLsbD k.val)

/-- `WaitResolve()` (R202): the lowest pressed key goes to `V[key_reg]`, the wait ends and `pc` advances; with no key
pressed nothing changes. -/
def State.waitResolve (s : State) : State :=
  match lowestKey s.keys with
  | some k => ((s.setV s.keyReg (BitVec.ofNat 8 k.val)).leaveWait).advance
  | none => s

end Sys2Proof.Machine
end

