-- ==== Sys2Proof/Machine/LoadAlu.lean ====
section
/-! DEFINITION. Register loads and 8-bit arithmetic: 6XNN, 7XNN, 8XY0 to 8XY7, 8XYE (spec/42_load_alu.md). -/

namespace Sys2Proof.Machine

/-- 6XNN (R151). -/
def execLdImm (x : RegIndex) (nn : Byte) (s : State) : Host.Outcome State Fault Refusal :=
  .next (s.setV x nn).advance

/-- 7XNN (R152): no flag. -/
def execAddImm (x : RegIndex) (nn : Byte) (s : State) : Host.Outcome State Fault Refusal :=
  .next (s.setV x (addByte (s.reg x) nn)).advance

/-- 8XY0 (R153). -/
def execLdReg (x y : RegIndex) (s : State) : Host.Outcome State Fault Refusal :=
  .next (s.setV x (s.reg y)).advance

/-- 8XY1 (R154): VF is not touched. -/
def execOrReg (x y : RegIndex) (s : State) : Host.Outcome State Fault Refusal :=
  .next (s.setV x (s.reg x ||| s.reg y)).advance

/-- 8XY2 (R155): VF is not touched. -/
def execAndReg (x y : RegIndex) (s : State) : Host.Outcome State Fault Refusal :=
  .next (s.setV x (s.reg x &&& s.reg y)).advance

/-- 8XY3 (R156): VF is not touched. -/
def execXorReg (x y : RegIndex) (s : State) : Host.Outcome State Fault Refusal :=
  .next (s.setV x (s.reg x ^^^ s.reg y)).advance

/-- 8XY4 (R157): VF is the carry. -/
def execAddReg (x y : RegIndex) (s : State) : Host.Outcome State Fault Refusal :=
  .next (s.setResult x (addByte (s.reg x) (s.reg y)) (carry (s.reg x) (s.reg y))).advance

/-- 8XY5 (R158): VF is the no-borrow flag of `Vx - Vy`. -/
def execSubReg (x y : RegIndex) (s : State) : Host.Outcome State Fault Refusal :=
  .next (s.setResult x (subByte (s.reg x) (s.reg y)) (noBorrow (s.reg x) (s.reg y))).advance

/-- 8XY6 (R159): Y is ignored (spec/30_encoding.md R96). -/
def execShr (x _y : RegIndex) (s : State) : Host.Outcome State Fault Refusal :=
  .next (s.setResult x (shrByte (s.reg x)) (shrFlag (s.reg x))).advance

/-- 8XY7 (R160): VF is the no-borrow flag of `Vy - Vx`. -/
def execSubnReg (x y : RegIndex) (s : State) : Host.Outcome State Fault Refusal :=
  .next (s.setResult x (subByte (s.reg y) (s.reg x)) (noBorrow (s.reg y) (s.reg x))).advance

/-- 8XYE (R161): Y is ignored (spec/30_encoding.md R96). -/
def execShl (x _y : RegIndex) (s : State) : Host.Outcome State Fault Refusal :=
  .next (s.setResult x (shlByte (s.reg x)) (shlFlag (s.reg x))).advance

end Sys2Proof.Machine
end

