-- ==== Sys2Proof/Machine/TimerRandom.lean ====
section
/-! DEFINITION. The random byte and the timers: CXNN, FX07, FX15, FX18 (spec/45_timer_random.md). -/

namespace Sys2Proof.Machine

/-- CXNN (R190): `V[X] <- rnd & NN`, `rnd` being this step's free input as latched (log entry 4). -/
def execRnd (x : RegIndex) (nn : Byte) (s : State) : Host.Outcome State Fault Refusal :=
  .next (s.setV x (s.rndIn &&& nn)).advance

/-- FX07 (R191): `DT` as this step's tick left it. -/
def execLdVxDt (x : RegIndex) (s : State) : Host.Outcome State Fault Refusal := .next (s.setV x s.dt).advance

/-- FX15 (R192). -/
def execLdDtVx (x : RegIndex) (s : State) : Host.Outcome State Fault Refusal := .next (s.setDt (s.reg x)).advance

/-- FX18 (R193). -/
def execLdStVx (x : RegIndex) (s : State) : Host.Outcome State Fault Refusal := .next (s.setSt (s.reg x)).advance

end Sys2Proof.Machine
end

