-- ==== Sys2Proof/Machine/Cycle.lean ====
section
/-! DEFINITION. The step of spec/40_cycle.md R121: halt check, keypad latch, wait state, timer tick, fetch, execute; and
the host's free inputs to it. -/

namespace Sys2Proof.Machine

/-- `Fetch()` (R124): the big-endian word at `pc`, or the fault of an address above 0xFFF. No alignment check. -/
def State.fetch (s : State) : Except Fault Word :=
  match readFault s.pc.toNat 2 with
  | some f => .error f
  | none => .ok (bigEndian (s.mem.read s.pc.toNat) (s.mem.read (s.pc.toNat + 1)))

/-- Items 5 and 6 of R121: fetch, decode, dispatch; a fetch fault records the opcode 0, an illegal word
`DecodeFailure`. -/
def fetchExecute (s : State) : Host.Outcome State Fault Refusal :=
  match s.fetch with
  | .error f => .next (s.raise f 0)
  | .ok op =>
    match decode op with
    | .error _ => .next (s.raise .decodeFailure op)
    | .ok i => exec i s

/-- `Step(keypad, rnd)` (R121). -/
def cycle (inp : HostInput) (s : State) : Host.Outcome State Fault Refusal :=
  if s.halted then .next s
  else if s.waiting then .next ((s.latch inp).tickIf Config.timersRunWhileWaiting).waitResolve
  else fetchExecute (s.latch inp).tick

/-- The host's choices around its `n`-th step (spec/60_exceptions.md R236), all free. -/
def hostInput (n : Nat) : HostInput :=
  { keypad := Config.keypad n, rnd := Config.rnd n, ack := Config.acksDirty n }

/-- One step as the host drives it: an `AckDirty` or none since the step before, then the step with its inputs. -/
def hostStep (inp : HostInput) (s : State) : Host.Outcome State Fault Refusal := cycle inp (s.between inp.ack)

/-! ### The rest of the host interface (spec/60_exceptions.md R236) -/

/-- `Load(bytes)` (spec/20_memory.md R66): the bytes from 0x200 upward, cut off silently after 0xFFF. -/
def State.load (s : State) (bytes : List Byte) : State := s.storeBytes 0x200 (bytes.take 3584)

/-- `AckDirty` (R238). -/
def State.ackDirty (s : State) : State := { s with dirty := false }

/-- The output `sound_on` (spec/10_state.md R34). -/
def State.soundOn (s : State) : Bool := s.st != 0

/-- Where a step fetches its next instruction, made ready: not halted, not waiting, `pc` within reach, and the two bytes
of `op` there, big-endian. -/
def State.placeWord (s : State) (op : Word) : State :=
  let pc : Word := if s.pc.toNat ≤ 0xFFE then s.pc else 0x200
  { s with halted := false, waiting := false, pc := pc, mem := s.mem.store pc.toNat (wordBytes op) }

end Sys2Proof.Machine
end

