-- ==== Sys2Proof/Machine/Step.lean ====
section
/-! DEFINITION. The machine's step, and an instruction placed where it fetches. -/

namespace Sys2Proof.Machine

/-- One invocation of the step, with the host's free inputs (spec/40_cycle.md R120, R121; log entries 2 and 3). -/
def step (s : State) : Host.Outcome State Fault Refusal := hostStep (hostInput s.stepIndex) s

/-- `s` with the instruction whose bits are the low `nbits` bits of `w` placed where `step` fetches (log entry 10). -/
def State.withFetchWord (s : State) (nbits w : Nat) : State := s.placeWord (BitVec.ofNat 16 (w % 2 ^ nbits))

end Sys2Proof.Machine
end

