-- ==== Sys2Proof/Safety.lean ====
section
/-! DEFINITION. The terms claims use: the parts of the state and what it means to leave them alone, the invariants of
spec/10_state.md R22, R37, R38 and R41, what a safe state is (spec/60_exceptions.md R231) and when a program has finished
(spec/70_reset_and_hazards.md R259). -/

namespace Sys2Proof.Machine

/-- The parts of the state, one for each field of `State`. -/
inductive Part where
  | v | i | pc | stack | sp | dt | st | mem | fb | dirty | keys | waiting | keyReg
  | halted | faultCause | faultPc | faultOpcode | faultSp | rndIn | stepIndex
  deriving DecidableEq, Repr

/-- Two states agree on a part. Registers agree one by one; memory agrees when every address reads the same. -/
def Agree : Part → State → State → Prop
  | .v, s, t => ∀ r, t.reg r = s.reg r
  | .i, s, t => t.i = s.i
  | .pc, s, t => t.pc = s.pc
  | .stack, s, t => t.stack = s.stack
  | .sp, s, t => t.sp = s.sp
  | .dt, s, t => t.dt = s.dt
  | .st, s, t => t.st = s.st
  | .mem, s, t => ∀ a, t.mem.read a = s.mem.read a
  | .fb, s, t => t.fb = s.fb
  | .dirty, s, t => t.dirty = s.dirty
  | .keys, s, t => t.keys = s.keys
  | .waiting, s, t => t.waiting = s.waiting
  | .keyReg, s, t => t.keyReg = s.keyReg
  | .halted, s, t => t.halted = s.halted
  | .faultCause, s, t => t.faultCause = s.faultCause
  | .faultPc, s, t => t.faultPc = s.faultPc
  | .faultOpcode, s, t => t.faultOpcode = s.faultOpcode
  | .faultSp, s, t => t.faultSp = s.faultSp
  | .rndIn, s, t => t.rndIn = s.rndIn
  | .stepIndex, s, t => t.stepIndex = s.stepIndex

/-- The frame: `t` agrees with `s` on every part but the listed ones. -/
def KeepsAllBut (ps : List Part) (s t : State) : Prop := ∀ p, p ∉ ps → Agree p s t

/-- Memory is unchanged outside `n` bytes from address `a` upward. -/
def KeepsMemoryOutside (a n : Nat) (s t : State) : Prop :=
  ∀ b, b < a ∨ a + n ≤ b → t.mem.read b = s.mem.read b

/-- The parts a fatal condition writes (spec/60_exceptions.md R224). -/
def faultParts : List Part := [.halted, .faultCause, .faultPc, .faultOpcode, .faultSp]

/-- `t` is the fault entry from `s` for cause `f` and fetched word `op`: the diagnostics of spec/10_state.md R37, the halt
latch, and nothing else changed (spec/60_exceptions.md R224). -/
def Faulted (f : Fault) (op : Word) (s t : State) : Prop :=
  t.halted = true ∧ t.faultCause = f.code ∧ t.faultPc = s.pc ∧ t.faultOpcode = op ∧ t.faultSp = s.sp ∧
    KeepsAllBut faultParts s t

/-- What each instruction may write apart from a fault entry: the "written by" columns of spec/10_state.md R20, R21, R38. -/
def writtenParts : Instr → List Part
  | .cls => [.fb, .dirty, .pc]
  | .ret => [.sp, .pc]
  | .jp _ => [.pc]
  | .call _ => [.stack, .sp, .pc]
  | .seImm _ _ => [.pc]
  | .ldImm _ _ => [.v, .pc]
  | .addImm _ _ => [.v, .pc]
  | .ldReg _ _ => [.v, .pc]
  | .orReg _ _ => [.v, .pc]
  | .andReg _ _ => [.v, .pc]
  | .xorReg _ _ => [.v, .pc]
  | .addReg _ _ => [.v, .pc]
  | .subReg _ _ => [.v, .pc]
  | .shr _ _ => [.v, .pc]
  | .subnReg _ _ => [.v, .pc]
  | .shl _ _ => [.v, .pc]
  | .sneReg _ _ => [.pc]
  | .ldI _ => [.i, .pc]
  | .jpV0 _ => [.pc]
  | .rnd _ _ => [.v, .pc]
  | .drw _ _ _ => [.fb, .v, .dirty, .pc]
  | .ldVxDt _ => [.v, .pc]
  | .ldVxKey _ => [.waiting, .keyReg]
  | .ldDtVx _ => [.dt, .pc]
  | .ldStVx _ => [.st, .pc]
  | .addI _ => [.i, .pc]
  | .ldFont _ => [.i, .pc]
  | .bcd _ => [.mem, .pc]
  | .storeRegs _ => [.mem, .pc]
  | .loadRegs _ => [.v, .pc]

/-- RUNNING and not halted: the states in which a step fetches (spec/40_cycle.md R121). -/
def State.running (s : State) : Prop := s.halted = false ∧ s.waiting = false

/-- The state an instruction of this step executes in, for the host's input `inp`: after an `AckDirty` or none, the keypad
latch and the timer tick (spec/40_cycle.md R121, R129). -/
def State.ready (s : State) (inp : HostInput) : State := ((s.between inp.ack).latch inp).tick

/-- Where each instruction leaves `pc` when it does not fault: a target, `pc + 4` for a taken skip, unchanged for FX0A, else
`pc + 2` (spec/40_cycle.md R126). -/
def nextPc (s : State) : Instr → Word
  | .cls => s.pc + 2
  | .ret => s.top
  | .jp nnn => zext16 nnn
  | .call nnn => zext16 nnn
  | .seImm x nn => if s.reg x = nn then s.pc + 4 else s.pc + 2
  | .ldImm _ _ => s.pc + 2
  | .addImm _ _ => s.pc + 2
  | .ldReg _ _ => s.pc + 2
  | .orReg _ _ => s.pc + 2
  | .andReg _ _ => s.pc + 2
  | .xorReg _ _ => s.pc + 2
  | .addReg _ _ => s.pc + 2
  | .subReg _ _ => s.pc + 2
  | .shr _ _ => s.pc + 2
  | .subnReg _ _ => s.pc + 2
  | .shl _ _ => s.pc + 2
  | .sneReg x y => if s.reg x = s.reg y then s.pc + 2 else s.pc + 4
  | .ldI _ => s.pc + 2
  | .jpV0 nnn => zext16 nnn + zext16 (s.reg 0)
  | .rnd _ _ => s.pc + 2
  | .drw _ _ _ => s.pc + 2
  | .ldVxDt _ => s.pc + 2
  | .ldVxKey _ => s.pc
  | .ldDtVx _ => s.pc + 2
  | .ldStVx _ => s.pc + 2
  | .addI _ => s.pc + 2
  | .ldFont _ => s.pc + 2
  | .bcd _ => s.pc + 2
  | .storeRegs _ => s.pc + 2
  | .loadRegs _ => s.pc + 2

/-- Every word with these fixed bits decodes to the instruction `f` reads from its fields (an "Encoding" line of spec/41 to
46: `op & mask == value`). -/
def DecodesTo (mask value : Word) (f : Word → Instr) : Prop := ∀ op : Word, op &&& mask = value → decode op = .ok (f op)

/-- The word at `pc`: the two bytes there, big-endian (spec/40_cycle.md R124). -/
def State.wordAtPc (s : State) : Word := bigEndian (s.mem.read s.pc.toNat) (s.mem.read (s.pc.toNat + 1))

/-- Safe: no fatal condition recorded (spec/60_exceptions.md R231). -/
def State.safe (s : State) : Prop := s.halted = false

/-- Memory is in canonical form and the font region holds its reset contents (spec/10_state.md R41). -/
def MemoryInv (s : State) : Prop := s.mem.wf = true ∧ s.mem.inRam = true

/-- The reachable ranges of `pc` and of the stack entries, and a waiting core's `pc`, which addresses the FX0A it waits in
(spec/10_state.md R22, R38, spec/46_keypad.md R200). -/
def PcInv (s : State) : Prop :=
  s.pc.toNat ≤ 0x10FE ∧
  (s.waiting = true → s.pc.toNat ≤ 0xFFE ∧ decode s.wordAtPc = .ok (.ldVxKey s.keyReg)) ∧
  ∀ k : Fin 16, s.stack[k].toNat ≤ 0x1000

/-- When an instruction executed in `s` raises each cause: the "when" column of spec/60_exceptions.md R221, with the address
conditions of R226 and R227. An instruction never raises `DecodeFailure`: it has been decoded. -/
def Raises (i : Instr) (s : State) : Fault → Prop
  | .decodeFailure => False
  | .stackOverflow => (∃ nnn, i = .call nnn) ∧ s.sp.val = 16
  | .stackUnderflow => i = .ret ∧ s.sp.val = 0
  | .addressOutOfRange =>
    (∃ x y n, i = .drw x y n ∧ 0 < n.val ∧ 0xFFF < s.ea (n.val - 1)) ∨ (∃ x, i = .bcd x ∧ 0xFFF < s.ea 2) ∨
      ∃ x, (i = .storeRegs x ∨ i = .loadRegs x) ∧ 0xFFF < s.ea x.val
  | .fontRegionWrite => ∃ x, (i = .bcd x ∨ i = .storeRegs x) ∧ s.ea 0 < 0x200

/-- The recorded cause is the one the word `pc` addresses raises in `s`, by the codes of spec/60_exceptions.md R221. -/
def CauseFits (s : State) : Prop :=
  (s.faultCause = 1 ∧ legalWord s.wordAtPc = false) ∨
  ∃ i, decode s.wordAtPc = .ok i ∧
    ((s.faultCause = 2 ∧ Raises i s .stackOverflow) ∨ (s.faultCause = 3 ∧ Raises i s .stackUnderflow) ∨
     (s.faultCause = 4 ∧ Raises i s .addressOutOfRange) ∨ (s.faultCause = 5 ∧ Raises i s .fontRegionWrite))

/-- The diagnostics say what happened: all 0 while not halted; once halted, `pc`, `sp`, `I` and memory are still those of the
faulting step, the opcode is the word `pc` addresses, or 0 for a fetch fault, and the cause is the one that word raises
there (spec/10_state.md R37, spec/60_exceptions.md R221, R224). -/
def FaultInv (s : State) : Prop :=
  (s.halted = false → s.faultCause = 0 ∧ s.faultPc = 0 ∧ s.faultOpcode = 0 ∧ s.faultSp = 0) ∧
  (s.halted = true → s.waiting = false ∧ s.faultPc = s.pc ∧ s.faultSp = s.sp ∧
    ((0xFFE < s.pc.toNat ∧ s.faultCause = 4 ∧ s.faultOpcode = 0) ∨
     (s.pc.toNat ≤ 0xFFE ∧ s.faultOpcode = s.wordAtPc ∧ CauseFits s)))

/-- "Finished normally": RUNNING, not halted, and the instruction at `pc` is `1NNN` with `NNN = pc` (R259, the spec's
convention). -/
def State.finished (s : State) : Prop :=
  s.running ∧ s.pc.toNat ≤ 0xFFE ∧ ∃ nnn, decode s.wordAtPc = .ok (.jp nnn) ∧ nnn.toNat = s.pc.toNat

/-- The spec's default design: both open parameters at their defaults (spec/00_scope.md R6). A premise only. -/
def defaultDesign : Prop := Config.fontRom = Config.fontRomDefault ∧ Config.timersRunWhileWaiting = false

end Sys2Proof.Machine
end

