-- ==== Sys2Proof/Certificates/Slice0/Obligations.lean ====
section
/-! DEFINITION. The statements for the provers, each from the rules of spec/. Where a statement rests on a decision the
spec marks as its own (92_eei_decisions.md) or on a choice of the model (a log entry), its docstring says so. -/

open Sys2Proof Sys2Proof.Machine

/-! ### Reset and load -/

/-- 10_state.md section 10, 70_reset_and_hazards.md section 1. `dirty`, `key_reg`, `halted` and the fault registers rest on
the spec's decisions D11 and D21; the font is the open parameter FONT_ROM (D15). The model's own fields are not named. -/
def Obligations.ResetLeavesTheSpecValues : Prop :=
  let t := State.reset
  (∀ r, t.reg r = 0) ∧ t.i = 0 ∧ t.pc = 0x200 ∧ (∀ k : Fin 16, t.stack[k] = 0) ∧ t.sp = 0 ∧ t.dt = 0 ∧ t.st = 0 ∧
  (∀ a, (h : a < 80) → t.mem.read a = Config.fontRom[a]) ∧ (∀ a, 80 ≤ a → a ≤ 0xFFF → t.mem.read a = 0) ∧
  (∀ row col, pixelAt t.fb row col = false) ∧ t.dirty = false ∧ t.keys = 0 ∧ t.waiting = false ∧ t.keyReg = 0 ∧
  t.halted = false ∧ t.faultCause = 0 ∧ t.faultPc = 0 ∧ t.faultOpcode = 0 ∧ t.faultSp = 0 ∧ t.soundOn = false

/-- 20_memory.md section 2, program load (an inference the spec marks "derived"): a host that never loads sees the first
step raise DecodeFailure on the word 0x0000, whatever its inputs. -/
def Obligations.StepWithoutLoadRaisesDecodeFailure : Prop :=
  ∀ inp, ∃ t, hostStep inp State.reset = .next t ∧ Faulted .decodeFailure 0 (State.reset.ready inp) t

/-- 20_memory.md section 2, program load: byte k goes to 0x200 + k while that is at most 0xFFF; everything else keeps its
value. -/
def Obligations.LoadCopiesFromProgramBase : Prop :=
  ∀ (s : State) (bytes : List Byte),
    (∀ k, (h : k < bytes.length) → 0x200 + k ≤ 0xFFF → (s.load bytes).mem.read (0x200 + k) = bytes[k]) ∧
    (∀ a, a < 0x200 ∨ 0x200 + bytes.length ≤ a ∨ 0xFFF < a → (s.load bytes).mem.read a = s.mem.read a) ∧
    KeepsAllBut [.mem] s (s.load bytes)

/-! ### Encoding -/

/-- 30_encoding.md sections 1 and 2: no bit of an encoding is dropped, for all 30 instructions and all their fields. -/
def Obligations.DecodeOfEncodeIsTheInstruction : Prop :=
  ∀ i : Instr, decode (encode i) = .ok i

/-- 30_encoding.md sections 1 and 2: the word is rebuilt from the instruction it decodes to, so the word `encode i` that a
fault entry records is the fetched word (log entry 8). -/
def Obligations.EncodeOfDecodeIsTheWord : Prop :=
  ∀ (op : Word) (i : Instr), decode op = .ok i → encode i = op

/-- 30_encoding.md section 2: the decode procedure accepts exactly the words some row of the opcode table covers, and gives
the instruction of that row. The exact match of every written digit is the spec's decision D2. -/
def Obligations.DecodeFollowsTheOpcodeTable : Prop :=
  ∀ op : Word, ((∃ i, decode op = .ok i) ↔ legalWord op = true) ∧
    ∀ i, decode op = .ok i → ∃ r ∈ opcodeTable, r.pattern = i.pattern ∧ r.covers op = true

/-- 30_encoding.md section 2: the rows are pairwise disjoint. -/
def Obligations.OpcodeRowsAreDisjoint : Prop :=
  ∀ (op : Word), ∀ r ∈ opcodeTable, ∀ r' ∈ opcodeTable, r.covers op = true → r'.covers op = true → r = r'

/-- 30_encoding.md section 3: the illegal words are exactly those of the spec's table (decision D1). -/
def Obligations.IllegalWordsAreTheListedOnes : Prop :=
  ∀ op : Word, (∃ r, decode op = .error r) ↔
    (op.toNat < 0x1000 ∧ op.toNat ≠ 0x00E0 ∧ op.toNat ≠ 0x00EE) ∨
    (0x4000 ≤ op.toNat ∧ op.toNat < 0x6000) ∨
    (0x8000 ≤ op.toNat ∧ op.toNat < 0x9000 ∧ 8 ≤ op.toNat % 16 ∧ op.toNat % 16 ≠ 14) ∨
    (0x9000 ≤ op.toNat ∧ op.toNat < 0xA000 ∧ op.toNat % 16 ≠ 0) ∨
    (0xE000 ≤ op.toNat ∧ op.toNat < 0xF000) ∨
    (0xF000 ≤ op.toNat ∧ op.toNat % 256 ∉ [0x07, 0x0A, 0x15, 0x18, 0x1E, 0x29, 0x33, 0x55, 0x65])

/-- 95_test_vectors.md sections 1.1, 2.1, 2.2, 2.8 (0xC10F) and 2.9 (0xF30A): words written out there decode to the instructions they stand for. -/
def Obligations.SampleWordsDecode : Prop :=
  decode 0x6005 = .ok (.ldImm 0 0x05) ∧ decode 0x8014 = .ok (.addReg 0 1) ∧ decode 0x00E0 = .ok .cls ∧
  decode 0xD125 = .ok (.drw 1 2 5) ∧ decode 0x8AB4 = .ok (.addReg 10 11) ∧ decode 0xF265 = .ok (.loadRegs 2) ∧
  decode 0x1FFE = .ok (.jp 0xFFE) ∧ decode 0xC10F = .ok (.rnd 1 0x0F) ∧ decode 0xF30A = .ok (.ldVxKey 3) ∧
  decode 0x9AB1 = .error .family9 ∧ decode 0x01E0 = .error .family0 ∧ decode 0xE19E = .error .familyE

/-! ### Control transfer (41_control_flow.md) -/

/-- R141: `pc <- NNN`, any target, and nothing else. -/
def Obligations.JumpSetsPcToNNN : Prop :=
  DecodesTo 0xF000 0x1000 (fun op => .jp (fieldNNN op)) ∧
  ∀ (nnn : Address) (s : State), ∃ t, exec (.jp nnn) s = .next t ∧ t.pc.toNat = nnn.toNat ∧ KeepsAllBut [.pc] s t

/-- R143: skip exactly when `V[X] = NN`. -/
def Obligations.SkipIfEqualImmediate : Prop :=
  DecodesTo 0xF000 0x3000 (fun op => .seImm (fieldX op) (fieldNN op)) ∧
  ∀ (x : RegIndex) (nn : Byte) (s : State), ∃ t, exec (.seImm x nn) s = .next t ∧
    (s.reg x = nn → t.pc = s.pc + 4) ∧ (s.reg x ≠ nn → t.pc = s.pc + 2) ∧ KeepsAllBut [.pc] s t

/-- R144: skip exactly when `V[X] ≠ V[Y]`; X = Y never skips. -/
def Obligations.SkipIfRegistersDiffer : Prop :=
  DecodesTo 0xF00F 0x9000 (fun op => .sneReg (fieldX op) (fieldY op)) ∧
  (∀ op : Word, op &&& 0xF000 = 0x9000 → op &&& 0x000F ≠ 0 → decode op = .error .family9) ∧
  ∀ (x y : RegIndex) (s : State), ∃ t, exec (.sneReg x y) s = .next t ∧
    (s.reg x ≠ s.reg y → t.pc = s.pc + 4) ∧ (s.reg x = s.reg y → t.pc = s.pc + 2) ∧
    (x = y → t.pc = s.pc + 2) ∧ KeepsAllBut [.pc] s t

/-- BNNN: the sum is kept in full, at most 0x10FE, not reduced modulo 4096 (the 16-bit `pc` is the spec's decision D6). -/
def Obligations.JumpWithOffsetKeepsTheWholeSum : Prop :=
  ∀ (nnn : Address) (s : State), ∃ t, exec (.jpV0 nnn) s = .next t ∧
    t.pc.toNat = nnn.toNat + (s.reg 0).toNat ∧ t.pc.toNat ≤ 0x10FE ∧ KeepsAllBut [.pc] s t

/-- 2NNN with room on the stack (stack layout: the spec's decision D7). -/
def Obligations.CallPushesTheReturnAddress : Prop :=
  ∀ (nnn : Address) (s : State) (h : s.sp.val < 16), ∃ t, exec (.call nnn) s = .next t ∧
    t.stack[s.sp.val] = s.pc + 2 ∧ (∀ k : Fin 16, k.val ≠ s.sp.val → t.stack[k] = s.stack[k]) ∧
    t.sp.val = s.sp.val + 1 ∧ t.pc.toNat = nnn.toNat ∧ KeepsAllBut [.stack, .sp, .pc] s t

/-- 00EE with an address on the stack; the popped entry stays (the spec's decision D7). -/
def Obligations.ReturnPopsTheReturnAddress : Prop :=
  ∀ (s : State), 0 < s.sp.val → ∃ t, exec .ret s = .next t ∧
    (∀ k : Fin 16, k.val + 1 = s.sp.val → t.pc = s.stack[k]) ∧ t.sp.val + 1 = s.sp.val ∧ KeepsAllBut [.sp, .pc] s t

/-- The two stack faults and what they leave (causes and diagnostics: the spec's decisions D7, D10, D11). -/
def Obligations.StackExhaustionHalts : Prop :=
  (∀ (nnn : Address) (s : State), s.sp.val = 16 →
    ∃ t, exec (.call nnn) s = .next t ∧ Faulted .stackOverflow (encode (.call nnn)) s t) ∧
  (∀ (s : State), s.sp.val = 0 → ∃ t, exec .ret s = .next t ∧ Faulted .stackUnderflow 0x00EE s t)

/-- "A call (2NNN) followed immediately by a return (00EE) restores the program counter to exactly the instruction following
the call." (95_test_vectors.md P8; stack layout: decision D7.) -/
def Obligations.CallThenReturnResumesAfterTheCall : Prop :=
  ∀ (nnn : Address) (s : State), s.sp.val < 16 → ∃ t u, exec (.call nnn) s = .next t ∧ exec .ret t = .next u ∧
    u.pc = s.pc + 2 ∧ (∀ k : Fin 16, k.val < s.sp.val → u.stack[k] = s.stack[k]) ∧ KeepsAllBut [.stack, .pc] s u

/-! ### Loads and arithmetic (42_load_alu.md) -/

/-- R151. -/
def Obligations.LoadImmediateWritesItsRegister : Prop :=
  DecodesTo 0xF000 0x6000 (fun op => .ldImm (fieldX op) (fieldNN op)) ∧
  ∀ (x : RegIndex) (nn : Byte) (s : State), ∃ t, exec (.ldImm x nn) s = .next t ∧
    t.reg x = nn ∧ (∀ r, r ≠ x → t.reg r = s.reg r) ∧ t.pc = s.pc + 2 ∧ KeepsAllBut [.v, .pc] s t

/-- R152: modulo 256, VF untouched unless it is the destination. -/
def Obligations.AddImmediateWrapsWithoutFlag : Prop :=
  DecodesTo 0xF000 0x7000 (fun op => .addImm (fieldX op) (fieldNN op)) ∧
  ∀ (x : RegIndex) (nn : Byte) (s : State), ∃ t, exec (.addImm x nn) s = .next t ∧
    (t.reg x).toNat = ((s.reg x).toNat + nn.toNat) % 256 ∧ (∀ r, r ≠ x → t.reg r = s.reg r) ∧
    t.pc = s.pc + 2 ∧ KeepsAllBut [.v, .pc] s t

/-- R153, R154, R155, R156, the logic bit by bit; VF is not touched unless it is the destination. -/
def Obligations.CopyAndLogicInstructionsWorkBitwise : Prop :=
  (DecodesTo 0xF00F 0x8000 (fun op => .ldReg (fieldX op) (fieldY op)) ∧
   DecodesTo 0xF00F 0x8001 (fun op => .orReg (fieldX op) (fieldY op)) ∧
   DecodesTo 0xF00F 0x8002 (fun op => .andReg (fieldX op) (fieldY op)) ∧
   DecodesTo 0xF00F 0x8003 (fun op => .xorReg (fieldX op) (fieldY op))) ∧
  ∀ (x y : RegIndex) (s : State),
    (∃ t, exec (.ldReg x y) s = .next t ∧ t.reg x = s.reg y ∧
      (∀ r, r ≠ x → t.reg r = s.reg r) ∧ t.pc = s.pc + 2 ∧ KeepsAllBut [.v, .pc] s t) ∧
    (∃ t, exec (.orReg x y) s = .next t ∧
      (∀ k, (t.reg x).getLsbD k = ((s.reg x).getLsbD k || (s.reg y).getLsbD k)) ∧
      (∀ r, r ≠ x → t.reg r = s.reg r) ∧ t.pc = s.pc + 2 ∧ KeepsAllBut [.v, .pc] s t) ∧
    (∃ t, exec (.andReg x y) s = .next t ∧
      (∀ k, (t.reg x).getLsbD k = ((s.reg x).getLsbD k && (s.reg y).getLsbD k)) ∧
      (∀ r, r ≠ x → t.reg r = s.reg r) ∧ t.pc = s.pc + 2 ∧ KeepsAllBut [.v, .pc] s t) ∧
    (∃ t, exec (.xorReg x y) s = .next t ∧
      (∀ k, (t.reg x).getLsbD k = xor ((s.reg x).getLsbD k) ((s.reg y).getLsbD k)) ∧
      (∀ r, r ≠ x → t.reg r = s.reg r) ∧ t.pc = s.pc + 2 ∧ KeepsAllBut [.v, .pc] s t)

/-- 8XY4: the wrapped sum and the carry, from the pre-instruction bytes; at X = 15 the flag is kept (the spec's decision
D12). -/
def Obligations.AddRegistersSetsCarry : Prop :=
  ∀ (x y : RegIndex) (s : State), ∃ t, exec (.addReg x y) s = .next t ∧
    (t.reg 15).toNat = (if (s.reg x).toNat + (s.reg y).toNat > 255 then 1 else 0) ∧
    (x ≠ 15 → (t.reg x).toNat = ((s.reg x).toNat + (s.reg y).toNat) % 256) ∧
    (∀ r, r ≠ x → r ≠ 15 → t.reg r = s.reg r) ∧ t.pc = s.pc + 2 ∧ KeepsAllBut [.v, .pc] s t

/-- 8XY5 and 8XY7: the wrapped difference and the no-borrow flag; at X = 15 the flag is kept (decision D12). -/
def Obligations.SubtractionsSetNoBorrow : Prop :=
  ∀ (x y : RegIndex) (s : State),
    (∃ t, exec (.subReg x y) s = .next t ∧
      (t.reg 15).toNat = (if (s.reg x).toNat ≥ (s.reg y).toNat then 1 else 0) ∧
      (x ≠ 15 → (t.reg x).toNat = if (s.reg x).toNat ≥ (s.reg y).toNat then (s.reg x).toNat - (s.reg y).toNat
        else 256 + (s.reg x).toNat - (s.reg y).toNat) ∧
      (∀ r, r ≠ x → r ≠ 15 → t.reg r = s.reg r) ∧ t.pc = s.pc + 2 ∧ KeepsAllBut [.v, .pc] s t) ∧
    (∃ t, exec (.subnReg x y) s = .next t ∧
      (t.reg 15).toNat = (if (s.reg y).toNat ≥ (s.reg x).toNat then 1 else 0) ∧
      (x ≠ 15 → (t.reg x).toNat = if (s.reg y).toNat ≥ (s.reg x).toNat then (s.reg y).toNat - (s.reg x).toNat
        else 256 + (s.reg y).toNat - (s.reg x).toNat) ∧
      (∀ r, r ≠ x → r ≠ 15 → t.reg r = s.reg r) ∧ t.pc = s.pc + 2 ∧ KeepsAllBut [.v, .pc] s t)

/-- 8XY6 and 8XYE: the shifted byte and the bit shifted out, whatever Y is; at X = 15 the flag is kept (decision D12). -/
def Obligations.ShiftsCaptureThePreShiftBit : Prop :=
  ∀ (x y : RegIndex) (s : State),
    (∃ t, exec (.shr x y) s = .next t ∧
      (t.reg 15).toNat = (s.reg x).toNat % 2 ∧ (x ≠ 15 → (t.reg x).toNat = (s.reg x).toNat / 2) ∧
      (∀ r, r ≠ x → r ≠ 15 → t.reg r = s.reg r) ∧ t.pc = s.pc + 2 ∧ KeepsAllBut [.v, .pc] s t) ∧
    (∃ t, exec (.shl x y) s = .next t ∧
      (t.reg 15).toNat = (s.reg x).toNat / 128 ∧ (x ≠ 15 → (t.reg x).toNat = 2 * (s.reg x).toNat % 256) ∧
      (∀ r, r ≠ x → r ≠ 15 → t.reg r = s.reg r) ∧ t.pc = s.pc + 2 ∧ KeepsAllBut [.v, .pc] s t)

/-! ### Index register and memory (43_index_memory.md) -/

/-- R170. -/
def Obligations.LoadIndexWritesI : Prop :=
  DecodesTo 0xF000 0xA000 (fun op => .ldI (fieldNNN op)) ∧
  ∀ (nnn : Address) (s : State), ∃ t, exec (.ldI nnn) s = .next t ∧
    t.i.toNat = nnn.toNat ∧ t.pc = s.pc + 2 ∧ KeepsAllBut [.i, .pc] s t

/-- R172: five bytes a glyph, the low nibble only. -/
def Obligations.FontInstructionPointsAtTheGlyph : Prop :=
  DecodesTo 0xF0FF 0xF029 (fun op => .ldFont (fieldX op)) ∧
  ∀ (x : RegIndex) (s : State), ∃ t, exec (.ldFont x) s = .next t ∧
    t.i.toNat = (s.reg x).toNat % 16 * 5 ∧ t.pc = s.pc + 2 ∧ KeepsAllBut [.i, .pc] s t

/-- FX1E: modulo 65536 (the spec's decision D13), no flag. -/
def Obligations.AddToIndexWrapsAt65536 : Prop :=
  ∀ (x : RegIndex) (s : State), ∃ t, exec (.addI x) s = .next t ∧
    t.i.toNat = (s.i.toNat + (s.reg x).toNat) % 65536 ∧ t.pc = s.pc + 2 ∧ KeepsAllBut [.i, .pc] s t

/-- FX33 with all three bytes in 0x200 to 0xFFF (the address checks are the spec's decisions D8, D9, D10). -/
def Obligations.BcdStoresThreeDigits : Prop :=
  ∀ (x : RegIndex) (s : State) (a : Nat), s.ea 0 = a → 0x200 ≤ a → a + 2 ≤ 0xFFF →
    ∃ t, exec (.bcd x) s = .next t ∧
      (t.mem.read a).toNat = (s.reg x).toNat / 100 ∧ (t.mem.read (a + 1)).toNat = (s.reg x).toNat / 10 % 10 ∧
      (t.mem.read (a + 2)).toNat = (s.reg x).toNat % 10 ∧
      KeepsMemoryOutside a 3 s t ∧ t.pc = s.pc + 2 ∧ KeepsAllBut [.mem, .pc] s t

/-- FX55 with all its bytes in 0x200 to 0xFFF; `I` is unchanged (decisions D8, D9, D10, D16). -/
def Obligations.StoreRegistersWritesTheBlock : Prop :=
  ∀ (x : RegIndex) (s : State) (a : Nat), s.ea 0 = a → 0x200 ≤ a → a + x.val ≤ 0xFFF →
    ∃ t, exec (.storeRegs x) s = .next t ∧ (∀ r, r ≤ x → t.mem.read (a + r.val) = s.reg r) ∧
      KeepsMemoryOutside a (x.val + 1) s t ∧ t.pc = s.pc + 2 ∧ KeepsAllBut [.mem, .pc] s t

/-- FX65 with all its bytes at most 0xFFF; `I` is unchanged, registers above X keep their values (decisions D8, D10, D16). -/
def Obligations.LoadRegistersReadsTheBlock : Prop :=
  ∀ (x : RegIndex) (s : State), s.ea x.val ≤ 0xFFF →
    ∃ t, exec (.loadRegs x) s = .next t ∧ (∀ r, r ≤ x → t.reg r = s.mem.read (s.ea r.val)) ∧
      (∀ r, x < r → t.reg r = s.reg r) ∧ t.pc = s.pc + 2 ∧ KeepsAllBut [.v, .pc] s t

/-- FX33, FX55, FX65 and DXYN with an address above 0xFFF: nothing is written but the diagnostics (decisions D8, D10). -/
def Obligations.AccessAboveMemoryHalts : Prop :=
  (∀ (x : RegIndex) (s : State), 0xFFF < s.ea 2 →
    ∃ t, exec (.bcd x) s = .next t ∧ Faulted .addressOutOfRange (encode (.bcd x)) s t) ∧
  (∀ (x : RegIndex) (s : State), 0xFFF < s.ea x.val →
    (∃ t, exec (.storeRegs x) s = .next t ∧ Faulted .addressOutOfRange (encode (.storeRegs x)) s t) ∧
    (∃ t, exec (.loadRegs x) s = .next t ∧ Faulted .addressOutOfRange (encode (.loadRegs x)) s t)) ∧
  (∀ (x y : RegIndex) (n : Fin 16) (s : State), 0 < n.val → 0xFFF < s.ea (n.val - 1) →
    ∃ t, exec (.drw x y n) s = .next t ∧ Faulted .addressOutOfRange (encode (.drw x y n)) s t)

/-- FX33 and FX55 with `I` below 0x200: no byte is written, not even a writable one (decisions D9, D10). -/
def Obligations.StoreIntoTheFontRegionHalts : Prop :=
  ∀ (x : RegIndex) (s : State), s.ea 0 < 0x200 →
    (∃ t, exec (.bcd x) s = .next t ∧ Faulted .fontRegionWrite (encode (.bcd x)) s t) ∧
    (∃ t, exec (.storeRegs x) s = .next t ∧ Faulted .fontRegionWrite (encode (.storeRegs x)) s t)

/-- 20_memory.md section 3 (an inference the spec marks "derived"): the bytes FX55 stores where the next instruction lies are
the word the next fetch reads. -/
def Obligations.StoredWordIsFetchedNext : Prop :=
  ∀ (x : RegIndex) (s : State), 1 ≤ x.val → s.pc.toNat ≤ 0xFFC → s.i = s.pc + 2 → 0x200 ≤ s.ea 0 → s.ea x.val ≤ 0xFFF →
    ∃ t, exec (.storeRegs x) s = .next t ∧ t.fetch = .ok (bigEndian (s.reg 0) (s.reg 1))

/-! ### Display (44_display.md) -/

/-- R180. -/
def Obligations.ClearScreenBlanksEveryPixel : Prop :=
  decode 0x00E0 = .ok .cls ∧
  ∀ (s : State), ∃ t, exec .cls s = .next t ∧ (∀ row col, pixelAt t.fb row col = false) ∧ t.dirty = true ∧
    t.pc = s.pc + 2 ∧ KeepsAllBut [.fb, .dirty, .pc] s t

/-- DXYN: the pixel at (row, col) is toggled exactly when a set bit of the sprite lands on it, coordinates wrapping modulo 32
and 64. Bit 7 leftmost and rows downward are the spec's decision D14; the address check D8; N = 0 draws nothing, D26. -/
def Obligations.DrawTogglesThePixelsUnderSetBits : Prop :=
  ∀ (x y : RegIndex) (n : Fin 16) (s : State), (0 < n.val → s.ea (n.val - 1) ≤ 0xFFF) →
    ∃ t, exec (.drw x y n) s = .next t ∧
      (∀ row col : Nat, row < 32 → col < 64 →
        ((∃ j k : Nat, j < n.val ∧ k < 8 ∧ ((s.reg y).toNat + j) % 32 = row ∧ ((s.reg x).toNat + k) % 64 = col ∧
            (s.mem.read (s.ea j)).getLsbD (7 - k) = true) →
          pixelAt t.fb row col = !pixelAt s.fb row col) ∧
        ((¬ ∃ j k : Nat, j < n.val ∧ k < 8 ∧ ((s.reg y).toNat + j) % 32 = row ∧ ((s.reg x).toNat + k) % 64 = col ∧
            (s.mem.read (s.ea j)).getLsbD (7 - k) = true) →
          pixelAt t.fb row col = pixelAt s.fb row col)) ∧
      t.dirty = true ∧ (∀ r, r ≠ 15 → t.reg r = s.reg r) ∧ t.pc = s.pc + 2 ∧ KeepsAllBut [.fb, .v, .dirty, .pc] s t

/-- DXYN: VF is 1 "if and only if at least one destination pixel transitioned from 1 to 0", else 0 (95_test_vectors.md P5). -/
def Obligations.DrawReportsCollisionExactly : Prop :=
  ∀ (x y : RegIndex) (n : Fin 16) (s : State), (0 < n.val → s.ea (n.val - 1) ≤ 0xFFF) →
    ∃ t, exec (.drw x y n) s = .next t ∧ (t.reg 15 = 0 ∨ t.reg 15 = 1) ∧
      (t.reg 15 = 1 ↔ ∃ row col : Nat, pixelAt s.fb row col = true ∧ pixelAt t.fb row col = false)

/-- DXYN drawn twice at the same place restores the framebuffer (44_display.md, corner case 7; its second half, on VF, is
not claimed: log entry 12). X and Y are not VF, which the first draw writes. -/
def Obligations.DrawTwiceRestoresTheScreen : Prop :=
  ∀ (x y : RegIndex) (n : Fin 16) (s : State), x ≠ 15 → y ≠ 15 → (0 < n.val → s.ea (n.val - 1) ≤ 0xFFF) →
    ∃ t u, exec (.drw x y n) s = .next t ∧ exec (.drw x y n) t = .next u ∧ u.fb = s.fb

/-! ### Random byte, timers, keypad (45_timer_random.md, 46_keypad.md) -/

/-- CXNN: the step's random byte, masked; the byte is free (the spec's decision D17; rndIn is the model's latch of it, log
entry 4). -/
def Obligations.RandomByteIsMasked : Prop :=
  ∀ (x : RegIndex) (nn : Byte) (s : State), ∃ t, exec (.rnd x nn) s = .next t ∧
    (∀ k, (t.reg x).getLsbD k = (s.rndIn.getLsbD k && nn.getLsbD k)) ∧ (nn = 0 → t.reg x = 0) ∧
    (nn = 0xFF → t.reg x = s.rndIn) ∧ (∀ r, r ≠ x → t.reg r = s.reg r) ∧ t.pc = s.pc + 2 ∧ KeepsAllBut [.v, .pc] s t

/-- R191, in a step: FX07 reads `DT` as this step's tick left it. -/
def Obligations.DelayTimerIsReadAfterTheTick : Prop :=
  ∀ (x : RegIndex) (s : State),
    (∃ t, exec (.ldVxDt x) s = .next t ∧ t.reg x = s.dt ∧ (∀ r, r ≠ x → t.reg r = s.reg r) ∧
      t.pc = s.pc + 2 ∧ KeepsAllBut [.v, .pc] s t) ∧
    ∀ inp, s.running → s.pc.toNat ≤ 0xFFE → decode s.wordAtPc = .ok (.ldVxDt x) →
      ∃ t, hostStep inp s = .next t ∧ (t.reg x).toNat = s.dt.toNat - 1 ∧ (t.dt).toNat = s.dt.toNat - 1

/-- R192, R193, in an instruction and in a step: the value written is not decremented in the same step; `sound_on` follows
`ST`. -/
def Obligations.TimersAreSetAfterTheTick : Prop :=
  ∀ (x : RegIndex) (s : State),
    (∃ t, exec (.ldDtVx x) s = .next t ∧ t.dt = s.reg x ∧ t.pc = s.pc + 2 ∧ KeepsAllBut [.dt, .pc] s t) ∧
    (∃ t, exec (.ldStVx x) s = .next t ∧ t.st = s.reg x ∧ (t.soundOn = true ↔ s.reg x ≠ 0) ∧ t.pc = s.pc + 2 ∧
      KeepsAllBut [.st, .pc] s t) ∧
    ∀ inp, s.running → s.pc.toNat ≤ 0xFFE →
      (decode s.wordAtPc = .ok (.ldDtVx x) → ∃ t, hostStep inp s = .next t ∧ t.dt = s.reg x) ∧
      (decode s.wordAtPc = .ok (.ldStVx x) → ∃ t, hostStep inp s = .next t ∧ t.st = s.reg x)

/-- FX0A enters WAITING_FOR_KEY and does nothing else, whatever keys are down (details of the wait: decision D4). -/
def Obligations.KeyWaitEntersWaiting : Prop :=
  ∀ (x : RegIndex) (s : State), ∃ t, exec (.ldVxKey x) s = .next t ∧ t.waiting = true ∧ t.keyReg = x ∧
    KeepsAllBut [.waiting, .keyReg] s t

/-- A WAITING_FOR_KEY step latches the keys, perhaps ticks the timers, runs the wait resolution, and does nothing else; it
raises no fault (40_cycle.md R128, with the latch of R122, the tick of R123 and the resolution of 46_keypad.md R202). It rests
on the spec's decisions D3 (the open parameter, log entry 6), D4 (what the resolving step does, log entry 14) and D19 (the
latch). rndIn, stepIndex and the host's AckDirty, the only change to `dirty`, are the model's, log entries 3 and 4. -/
def Obligations.WaitingStepExecutesNothing : Prop :=
  ∀ (inp : HostInput) (s : State), s.halted = false → s.waiting = true →
    ∃ t, hostStep inp s = .next t ∧ t.halted = false ∧ t.keys = inp.keypad ∧ t.dirty = (s.dirty && !inp.ack) ∧
      (Config.timersRunWhileWaiting = false → t.dt = s.dt ∧ t.st = s.st) ∧
      (Config.timersRunWhileWaiting = true → t.dt.toNat = s.dt.toNat - 1 ∧ t.st.toNat = s.st.toNat - 1) ∧
      (inp.keypad = 0 → t.waiting = true ∧ t.pc = s.pc ∧ Agree .v s t) ∧
      (inp.keypad ≠ 0 → t.waiting = false ∧ t.pc = s.pc + 2 ∧ ∀ r, r ≠ s.keyReg → t.reg r = s.reg r) ∧
      KeepsAllBut [.keys, .dt, .st, .v, .waiting, .pc, .rndIn, .dirty, .stepIndex] s t

/-- The wait resolves to the lowest pressed key (95_test_vectors.md P7; what the resolving step does: decision D4). -/
def Obligations.WaitResolvesToTheLowestKey : Prop :=
  ∀ (inp : HostInput) (s : State) (k : RegIndex), s.halted = false → s.waiting = true →
    inp.keypad.getLsbD k.val = true → (∀ j, j < k → inp.keypad.getLsbD j.val = false) →
    ∃ t, hostStep inp s = .next t ∧ (t.reg s.keyReg).toNat = k.val ∧ (∀ r, r ≠ s.keyReg → t.reg r = s.reg r) ∧
      t.waiting = false ∧ t.pc = s.pc + 2

/-- FX0A and the next step with a key down, together (46_keypad.md, timeline with j = 1, marked "derived"; D4). -/
def Obligations.KeyWaitTakesTwoStepsWithAKeyHeld : Prop :=
  ∀ (inp inp' : HostInput) (x k : RegIndex) (s : State), s.running → s.pc.toNat ≤ 0xFFE →
    decode s.wordAtPc = .ok (.ldVxKey x) →
    inp'.keypad.getLsbD k.val = true → (∀ j, j < k → inp'.keypad.getLsbD j.val = false) →
    ∃ t u, hostStep inp s = .next t ∧ t.waiting = true ∧ t.pc = s.pc ∧ Agree .v s t ∧
      hostStep inp' t = .next u ∧ u.running ∧ u.pc = s.pc + 2 ∧ (u.reg x).toNat = k.val

/-! ### The step (40_cycle.md) -/

/-- 40_cycle.md section 1: a running step runs the instruction its word decodes to, in the state after the host's choices,
the keypad latch and the timer tick, and that state differs from the state before in nothing else. The order is the spec's
decisions D3, D4; the inputs as free values are log entries 2 and 3. -/
def Obligations.StepRunsTheDecodedInstruction : Prop :=
  ∀ (s : State) (i : Instr), s.running → s.pc.toNat ≤ 0xFFE → decode s.wordAtPc = .ok i →
    ∃ p, step s = exec i p ∧ p.keys = Config.keypad s.stepIndex ∧ p.rndIn = Config.rnd s.stepIndex ∧
      p.dt.toNat = s.dt.toNat - 1 ∧ p.st.toNat = s.st.toNat - 1 ∧
      p.dirty = (s.dirty && !Config.acksDirty s.stepIndex) ∧ p.stepIndex = s.stepIndex + 1 ∧
      KeepsAllBut [.keys, .rndIn, .dt, .st, .dirty, .stepIndex] s p

/-- An illegal word halts the core after the tick and the fetch, with the word and `pc` reported, and `pc` is not advanced
(60_exceptions.md R222). `Faulted` also fixes cause code 1, `fault_sp` and that nothing else is written, which are R221 and
R224: the spec's decisions D10 and D11 (log entries 1 and 11). `ready` holds the host's inputs and AckDirty before the step (log
entries 3 and 4). -/
def Obligations.IllegalWordHaltsTheCore : Prop :=
  ∀ (inp : HostInput) (s : State), s.running → s.pc.toNat ≤ 0xFFE → legalWord s.wordAtPc = false →
    ∃ t, hostStep inp s = .next t ∧ Faulted .decodeFailure s.wordAtPc (s.ready inp) t ∧
      t.pc = s.pc ∧ t.faultPc = s.pc ∧ t.dt.toNat = s.dt.toNat - 1 ∧ t.st.toNat = s.st.toNat - 1

/-- A fetch above 0xFFE halts the core, with opcode 0 (the spec's decisions D8, D11). -/
def Obligations.FetchAboveMemoryHaltsTheCore : Prop :=
  ∀ (inp : HostInput) (s : State), s.running → 0xFFE < s.pc.toNat →
    ∃ t, hostStep inp s = .next t ∧ Faulted .addressOutOfRange 0 (s.ready inp) t

/-- A step of a halted core changes nothing; only the host's AckDirty, between steps, clears `dirty` (the halt latch is the
spec's decision D11; stepIndex is the model's, log entry 4). -/
def Obligations.HaltedStepChangesNothing : Prop :=
  ∀ (inp : HostInput) (s : State), s.halted = true → ∃ t, hostStep inp s = .next t ∧
    t.dirty = (s.dirty && !inp.ack) ∧ KeepsAllBut [.dirty, .stepIndex] s t

/-- Both timers tick once in every running step, saturating at 0, unless FX15 or FX18 of the same step overwrites them
(when the tick happens is the spec's decision D3). -/
def Obligations.TimersTickOnceInEveryRunningStep : Prop :=
  ∀ (inp : HostInput) (s t : State), s.running → hostStep inp s = .next t →
    ((t.dt.toNat = s.dt.toNat - 1) ∨ (∃ x, decode s.wordAtPc = .ok (.ldDtVx x) ∧ t.dt = s.reg x)) ∧
    ((t.st.toNat = s.st.toNat - 1) ∨ (∃ x, decode s.wordAtPc = .ok (.ldStVx x) ∧ t.st = s.reg x))

/-- R126: where every instruction leaves `pc` when it raises no fault, the wait resolution's `pc + 2`, and that the additions
to a reachable `pc` (at most 0x10FE, EveryStepKeepsPcInv) do not overflow. -/
def Obligations.EveryInstructionAdvancesPcAsStated : Prop :=
  (∀ (i : Instr) (s t : State), exec i s = .next t → t.halted = false → t.pc = nextPc s i) ∧
  (∀ (s : State) (k : RegIndex), lowestKey s.keys = some k → s.waitResolve.pc = s.pc + 2) ∧
  (∀ s : State, s.pc.toNat ≤ 0x10FE → (s.pc + 2).toNat = s.pc.toNat + 2 ∧ (s.pc + 4).toNat = s.pc.toNat + 4)

/-- An instruction changes only the parts its rule names, of memory only the bytes it stores to, or it is a fault entry and
changes only the diagnostics (completeness of effects is the spec's reading D24; precise faults D10). -/
def Obligations.InstructionsWriteOnlyTheirParts : Prop :=
  ∀ (i : Instr) (s t : State), exec i s = .next t →
    (KeepsAllBut (writtenParts i) s t ∨ ∃ f, Faulted f (encode i) s t) ∧
    (∀ x, i = .bcd x → KeepsMemoryOutside (s.ea 0) 3 s t) ∧
    (∀ x, i = .storeRegs x → KeepsMemoryOutside (s.ea 0) (x.val + 1) s t)

/-- A running step that ends halted is a fault entry from the state the instruction found: no partial effect (the spec's
decisions D10, D11). -/
def Obligations.FaultsArePrecise : Prop :=
  ∀ (inp : HostInput) (s t : State), s.running → hostStep inp s = .next t → t.halted = true →
    ∃ f op, Faulted f op (s.ready inp) t

/-- Every step of every state has a next state: fatal conditions are taken, nothing is refused (log entry 1). -/
def Obligations.EveryStepHasANextState : Prop :=
  ∀ s : State, ∃ t, step s = .next t

/-- The font region is immutable in every step from every state (the fault of a store there is the spec's decision D9). -/
def Obligations.FontRegionNeverChanges : Prop :=
  ∀ (inp : HostInput) (s t : State), hostStep inp s = .next t → ∀ a, a < 0x200 → t.mem.read a = s.mem.read a

/-- The random input reaches a program only through CXNN, and the keys through no instruction at all (only the wait
resolution reads them). Decisions D1, D17; rndIn is the model's latch, log entry 4. -/
def Obligations.HostInputsReachOnlyTheirReaders : Prop :=
  ∀ (i : Instr) (s t : State) (b : Byte) (k : BitVec 16), exec i s = .next t →
    exec i { s with keys := k } = .next { t with keys := k } ∧
    ((∀ x nn, i ≠ .rnd x nn) → exec i { s with rndIn := b } = .next { t with rndIn := b })

/-- 10_state.md section 9 (marked "derived"): `ST` and `dirty` are not observable by a program: what an instruction does to
everything else does not depend on them. -/
def Obligations.SoundTimerAndDirtyAreUnobservable : Prop :=
  ∀ (i : Instr) (s t : State) (b : Byte) (d : Bool), exec i s = .next t →
    ∃ u, exec i { s with st := b, dirty := d } = .next u ∧ KeepsAllBut [.st, .dirty] t u

/-- A finished program stays finished: every step leaves all state but the timers, `keys`, `dirty` and the model's own
fields (the end of a run is the spec's convention D25). -/
def Obligations.FinishedProgramStaysFinished : Prop :=
  ∀ (inp : HostInput) (s : State), s.finished → ∃ t, hostStep inp s = .next t ∧ t.finished ∧
    KeepsAllBut [.dt, .st, .keys, .dirty, .rndIn, .stepIndex] s t

/-! ### Invariants of every step -/

/-- 10_state.md section 10: memory keeps its canonical form and lists only writable addresses, so the font region holds
its reset contents. -/
def Obligations.EveryStepKeepsMemoryInv : Prop :=
  ∀ s t : State, MemoryInv s → step s = .next t → MemoryInv t

/-- 10_state.md sections 2 and 9, 46_keypad.md R200: `pc` stays at most 0x10FE, a waiting core's `pc` addresses its FX0A, whose
register is `key_reg`, and every stacked address is at most 0x1000 (16-bit `pc`: the spec's decision D6; the wait: D4). -/
def Obligations.EveryStepKeepsPcInv : Prop :=
  ∀ s t : State, PcInv s → step s = .next t → PcInv t

/-- 10_state.md section 8: the fault registers are 0 until the core halts, and from then on describe the faulting step: its
`pc`, `sp` and word, and the cause that word raises there (the spec's decisions D7 to D11). -/
def Obligations.EveryStepKeepsFaultInv : Prop :=
  ∀ s t : State, FaultInv s → step s = .next t → FaultInv t

/-- The invariants hold after reset, and after reset and load, where a run starts (40_cycle.md R130), whatever is loaded
(log entry 10). The host's AckDirty (60_exceptions.md R238, decision D5) clears `dirty`, changes nothing else and keeps them;
a step that an AckDirty precedes is the step after it (log entry 3). -/
def Obligations.ResetMeetsTheInvariants : Prop :=
  (MemoryInv State.reset ∧ PcInv State.reset ∧ FaultInv State.reset) ∧
  (∀ bytes : List Byte, MemoryInv (State.reset.load bytes) ∧ PcInv (State.reset.load bytes) ∧
    FaultInv (State.reset.load bytes)) ∧
  (∀ s : State, s.ackDirty.dirty = false ∧ KeepsAllBut [.dirty] s s.ackDirty ∧
    (MemoryInv s → MemoryInv s.ackDirty) ∧ (PcInv s → PcInv s.ackDirty) ∧ (FaultInv s → FaultInv s.ackDirty)) ∧
  (∀ (keys : BitVec 16) (rnd : Byte) (s : State), hostStep ⟨keys, rnd, true⟩ s = hostStep ⟨keys, rnd, false⟩ s.ackDirty)
end

