-- ==== Sys2Proof/Laws/Decode.lean ====
section
/-! SUPPORT. The fields of a word built from its format, the word rebuilt from its fields, and what the masks of the opcode
table leave of it. -/

namespace Sys2Proof

/-! ### The bits of a word in each format -/

theorem formatA_bit (t : BitVec 4) (n : Address) (i : Nat) :
    (formatA t n).getLsbD i = if i < 12 then n.getLsbD i else t.getLsbD (i - 12) := by
  have h : (formatA t n).getLsbD i = BitVec.getLsbD (w := 4 + 12) (t ++ n) i := rfl
  rw [h, BitVec.getLsbD_append]

theorem formatXI_bit (t : BitVec 4) (x : RegIndex) (nn : Byte) (i : Nat) :
    (formatXI t x nn).getLsbD i =
      if i < 8 then nn.getLsbD i else if i < 12 then (regNibble x).getLsbD (i - 8) else t.getLsbD (i - 12) := by
  have h : (formatXI t x nn).getLsbD i = BitVec.getLsbD (w := 4 + 4 + 8) (t ++ regNibble x ++ nn) i := rfl
  rw [h, BitVec.getLsbD_append, BitVec.getLsbD_append]
  split
  · rfl
  · by_cases h' : i < 12
    · rw [if_pos h', if_pos (by omega)]
    · rw [if_neg h', if_neg (by omega), show i - 8 - 4 = i - 12 by omega]

theorem formatXYN_bit (t : BitVec 4) (x y : RegIndex) (n : BitVec 4) (i : Nat) :
    (formatXYN t x y n).getLsbD i =
      if i < 4 then n.getLsbD i else if i < 8 then (regNibble y).getLsbD (i - 4)
      else if i < 12 then (regNibble x).getLsbD (i - 8) else t.getLsbD (i - 12) := by
  have h : (formatXYN t x y n).getLsbD i =
      BitVec.getLsbD (w := 4 + 4 + 4 + 4) (t ++ regNibble x ++ regNibble y ++ n) i := rfl
  rw [h, BitVec.getLsbD_append, BitVec.getLsbD_append, BitVec.getLsbD_append]
  split
  · rfl
  · by_cases h' : i < 8
    · rw [if_pos h', if_pos (by omega)]
    · rw [if_neg h', if_neg (by omega)]
      by_cases h'' : i < 12
      · rw [if_pos h'', if_pos (by omega), show i - 4 - 4 = i - 8 by omega]
      · rw [if_neg h'', if_neg (by omega), show i - 4 - 4 - 4 = i - 12 by omega]

theorem fieldT_bit (op : Word) (i : Nat) : (fieldT op).getLsbD i = (decide (i < 4) && op.getLsbD (12 + i)) := by
  simp [fieldT]

theorem fieldNN_bit (op : Word) (i : Nat) : (fieldNN op).getLsbD i = (decide (i < 8) && op.getLsbD i) := by
  simp [fieldNN]

theorem fieldNNN_bit (op : Word) (i : Nat) : (fieldNNN op).getLsbD i = (decide (i < 12) && op.getLsbD i) := by
  simp [fieldNNN]

theorem fieldX_bit (op : Word) (i : Nat) :
    (regNibble (fieldX op)).getLsbD i = (decide (i < 4) && op.getLsbD (8 + i)) := by
  rw [show regNibble (fieldX op) = op.extractLsb' 8 4 from rfl]; simp

theorem fieldY_bit (op : Word) (i : Nat) :
    (regNibble (fieldY op)).getLsbD i = (decide (i < 4) && op.getLsbD (4 + i)) := by
  rw [show regNibble (fieldY op) = op.extractLsb' 4 4 from rfl]; simp

theorem fieldN_bit (op : Word) (i : Nat) :
    (regNibble (fieldN op)).getLsbD i = (decide (i < 4) && op.getLsbD i) := by
  rw [show regNibble (fieldN op) = op.extractLsb' 0 4 from rfl]; simp

theorem regNibble_injective {x y : RegIndex} (h : regNibble x = regNibble y) : x = y :=
  congrArg BitVec.toFin h

/-! ### The fields of a word in each format (spec/30_encoding.md R91, R92) -/

theorem fieldT_formatA (t : BitVec 4) (n : Address) : fieldT (formatA t n) = t := by
  apply BitVec.eq_of_getLsbD_eq
  intro i hi
  rw [fieldT_bit, formatA_bit]
  simp [hi]

theorem fieldNNN_formatA (t : BitVec 4) (n : Address) : fieldNNN (formatA t n) = n := by
  apply BitVec.eq_of_getLsbD_eq
  intro i hi
  rw [fieldNNN_bit, formatA_bit]
  simp [hi]

theorem fieldT_formatXI (t : BitVec 4) (x : RegIndex) (nn : Byte) : fieldT (formatXI t x nn) = t := by
  apply BitVec.eq_of_getLsbD_eq
  intro i hi
  rw [fieldT_bit, formatXI_bit]
  simp [hi, show ¬ 12 + i < 8 by omega]

theorem fieldX_formatXI (t : BitVec 4) (x : RegIndex) (nn : Byte) : fieldX (formatXI t x nn) = x := by
  apply regNibble_injective
  apply BitVec.eq_of_getLsbD_eq
  intro i hi
  rw [fieldX_bit, formatXI_bit]
  simp [hi, show 8 + i < 12 by omega]

theorem fieldNN_formatXI (t : BitVec 4) (x : RegIndex) (nn : Byte) : fieldNN (formatXI t x nn) = nn := by
  apply BitVec.eq_of_getLsbD_eq
  intro i hi
  rw [fieldNN_bit, formatXI_bit]
  simp [hi]

theorem fieldT_formatXYN (t : BitVec 4) (x y : RegIndex) (n : BitVec 4) : fieldT (formatXYN t x y n) = t := by
  apply BitVec.eq_of_getLsbD_eq
  intro i hi
  rw [fieldT_bit, formatXYN_bit]
  simp [hi, show ¬ 12 + i < 8 by omega, show ¬ 12 + i < 4 by omega]

theorem fieldX_formatXYN (t : BitVec 4) (x y : RegIndex) (n : BitVec 4) : fieldX (formatXYN t x y n) = x := by
  apply regNibble_injective
  apply BitVec.eq_of_getLsbD_eq
  intro i hi
  rw [fieldX_bit, formatXYN_bit]
  simp [hi, show 8 + i < 12 by omega, show ¬ 8 + i < 4 by omega]

theorem fieldY_formatXYN (t : BitVec 4) (x y : RegIndex) (n : BitVec 4) : fieldY (formatXYN t x y n) = y := by
  apply regNibble_injective
  apply BitVec.eq_of_getLsbD_eq
  intro i hi
  rw [fieldY_bit, formatXYN_bit]
  simp [hi, show 4 + i < 8 by omega]

theorem regNibble_fieldN_formatXYN (t : BitVec 4) (x y : RegIndex) (n : BitVec 4) :
    regNibble (fieldN (formatXYN t x y n)) = n := by
  apply BitVec.eq_of_getLsbD_eq
  intro i hi
  rw [fieldN_bit, formatXYN_bit]
  simp [hi]

theorem fieldN_formatXYN (t : BitVec 4) (x y : RegIndex) (n : BitVec 4) :
    fieldN (formatXYN t x y n) = n.toFin :=
  congrArg BitVec.toFin (regNibble_fieldN_formatXYN t x y n)

/-! ### A word is its fields -/

theorem formatA_fields (op : Word) : formatA (fieldT op) (fieldNNN op) = op := by
  apply BitVec.eq_of_getLsbD_eq
  intro i hi
  rw [formatA_bit, fieldT_bit, fieldNNN_bit]
  interval_cases i <;> simp

theorem formatXI_fields (op : Word) : formatXI (fieldT op) (fieldX op) (fieldNN op) = op := by
  apply BitVec.eq_of_getLsbD_eq
  intro i hi
  rw [formatXI_bit, fieldT_bit, fieldX_bit, fieldNN_bit]
  interval_cases i <;> simp

theorem formatXYN_fields (op : Word) :
    formatXYN (fieldT op) (fieldX op) (fieldY op) (regNibble (fieldN op)) = op := by
  apply BitVec.eq_of_getLsbD_eq
  intro i hi
  rw [formatXYN_bit, fieldT_bit, fieldX_bit, fieldY_bit, fieldN_bit]
  interval_cases i <;> simp

/-- The nibble left when the procedure of R95 has excluded the fifteen others. -/
theorem nibble_eq_F (t : BitVec 4) (h : ∀ k : Fin 15, t ≠ BitVec.ofNat 4 k.val) : t = 0xF#4 := by
  revert h; revert t; decide

/-! ### The masks of the opcode table -/

/-- Mask 0xF000 keeps the leading nibble. -/
theorem and_F000 (op : Word) : op &&& 0xF000#16 = formatA (fieldT op) 0#12 := by
  apply BitVec.eq_of_getLsbD_eq
  intro i hi
  rw [formatA_bit, BitVec.getLsbD_and, fieldT_bit]
  interval_cases i <;> simp

/-- Mask 0xF00F keeps the leading and the last nibble. -/
theorem and_F00F (op : Word) : op &&& 0xF00F#16 = formatXYN (fieldT op) 0 0 (regNibble (fieldN op)) := by
  apply BitVec.eq_of_getLsbD_eq
  intro i hi
  rw [formatXYN_bit, BitVec.getLsbD_and, fieldT_bit, fieldN_bit]
  interval_cases i <;> simp [show regNibble 0 = 0#4 from rfl]

/-- Mask 0xF0FF keeps the leading nibble and the low byte. -/
theorem and_F0FF (op : Word) : op &&& 0xF0FF#16 = formatXI (fieldT op) 0 (fieldNN op) := by
  apply BitVec.eq_of_getLsbD_eq
  intro i hi
  rw [formatXI_bit, BitVec.getLsbD_and, fieldT_bit, fieldNN_bit]
  interval_cases i <;> simp [show regNibble 0 = 0#4 from rfl]

/-! ### Byte order (spec/20_memory.md R64) -/

theorem bigEndian_bit (hi lo : Byte) (i : Nat) :
    (bigEndian hi lo).getLsbD i = if i < 8 then lo.getLsbD i else hi.getLsbD (i - 8) := by
  have h : (bigEndian hi lo).getLsbD i = BitVec.getLsbD (w := 8 + 8) (hi ++ lo) i := rfl
  rw [h, BitVec.getLsbD_append]

/-- The bytes of a word, read big-endian, are the word. -/
theorem bigEndian_bytes (op : Word) : bigEndian (op.extractLsb' 8 8) (op.extractLsb' 0 8) = op := by
  apply BitVec.eq_of_getLsbD_eq
  intro i hi
  rw [bigEndian_bit]
  interval_cases i <;> simp

end Sys2Proof
end

