-- ==== Sys2Proof/Laws/Memory.lean ====
section
/-! SUPPORT. What the memory operations do: a read after a write, the canonical form they all keep, and that equal
memories are equal lists. -/

namespace Sys2Proof.Machine

theorem Memory.read_erase (m : Memory) (a c : Nat) :
    (m.erase a).read c = if c = a then Memory.initialByte c else m.read c := by
  induction m with
  | nil => simp [Memory.erase, Memory.read]
  | cons e m ih =>
    obtain ⟨k, b⟩ := e
    by_cases hk : k = a
    · subst hk
      by_cases hc : c = k
      · subst hc; simp [Memory.erase, ih]
      · simp [Memory.erase, ih, hc, Memory.read, Ne.symm hc]
    · by_cases hc : k = c
      · subst hc; simp [Memory.erase, hk, Memory.read]
      · simp [Memory.erase, hk, Memory.read, hc, ih]

theorem Memory.read_put (m : Memory) (a : Nat) (b : Byte) (c : Nat) :
    (m.put a b).read c = if c = a then b else m.read c := by
  induction m with
  | nil => simp [Memory.put, Memory.read, eq_comm]
  | cons e m ih =>
    obtain ⟨k, d⟩ := e
    by_cases hc : c = a
    · subst hc
      by_cases h1 : c < k
      · simp [Memory.put, h1, Memory.read]
      · by_cases h2 : k = c
        · simp [Memory.put, h2, Memory.read]
        · simp [Memory.put, h1, h2, Memory.read, ih]
    · by_cases h1 : a < k
      · simp [Memory.put, h1, Memory.read, hc, Ne.symm hc]
      · by_cases h2 : k = a
        · simp [Memory.put, h2, Memory.read, hc, Ne.symm hc]
        · simp [Memory.put, h1, h2, Memory.read, hc, ih]

/-- A read after a write: the written address reads the byte written, every other address reads as before. -/
theorem Memory.read_set (m : Memory) (a : Nat) (b : Byte) (c : Nat) :
    (m.set a b).read c = if c = a then b else m.read c := by
  unfold Memory.set
  split
  · next h => rw [Memory.read_erase]; split <;> simp_all
  · exact Memory.read_put m a b c

theorem Memory.wfAbove_mono {lo lo' : Nat} {m : Memory} (h : Memory.wfAbove lo m = true) (hle : lo' ≤ lo) :
    Memory.wfAbove lo' m = true := by
  cases m with
  | nil => rfl
  | cons e m =>
    obtain ⟨k, b⟩ := e
    simp only [Memory.wfAbove, Bool.and_eq_true, decide_eq_true_eq] at h ⊢
    exact ⟨⟨by omega, h.1.2⟩, h.2⟩

theorem Memory.wfAbove_erase {lo : Nat} {m : Memory} (a : Nat) (h : Memory.wfAbove lo m = true) :
    Memory.wfAbove lo (m.erase a) = true := by
  induction m generalizing lo with
  | nil => rfl
  | cons e m ih =>
    obtain ⟨k, b⟩ := e
    simp only [Memory.wfAbove, Bool.and_eq_true, decide_eq_true_eq] at h
    by_cases hk : k = a
    · rw [Memory.erase, if_pos hk]
      exact ih (Memory.wfAbove_mono h.2 (by omega))
    · rw [Memory.erase, if_neg hk]
      simp only [Memory.wfAbove, Bool.and_eq_true, decide_eq_true_eq]
      exact ⟨h.1, ih h.2⟩

theorem Memory.wfAbove_put {lo : Nat} {m : Memory} {a : Nat} {b : Byte} (h : Memory.wfAbove lo m = true)
    (ha : lo ≤ a) (hb : b ≠ Memory.initialByte a) : Memory.wfAbove lo (m.put a b) = true := by
  induction m generalizing lo with
  | nil => simp [Memory.put, Memory.wfAbove, ha, hb]
  | cons e m ih =>
    obtain ⟨k, c⟩ := e
    have h' := h
    simp only [Memory.wfAbove, Bool.and_eq_true, decide_eq_true_eq] at h
    by_cases h1 : a < k
    · rw [Memory.put, if_pos h1]
      simp only [Memory.wfAbove, Bool.and_eq_true, decide_eq_true_eq, bne_iff_ne, ne_eq]
      exact ⟨⟨ha, hb⟩, ⟨by omega, by simpa using h.1.2⟩, h.2⟩
    · by_cases h2 : k = a
      · subst h2
        rw [Memory.put, if_neg h1, if_pos rfl]
        simp only [Memory.wfAbove, Bool.and_eq_true, decide_eq_true_eq, bne_iff_ne, ne_eq]
        exact ⟨⟨ha, hb⟩, h.2⟩
      · rw [Memory.put, if_neg h1, if_neg h2]
        simp only [Memory.wfAbove, Bool.and_eq_true, decide_eq_true_eq]
        exact ⟨h.1, ih h.2 (by omega)⟩

/-- A write keeps the canonical form. -/
theorem Memory.wf_set {m : Memory} (a : Nat) (b : Byte) (h : m.wf = true) : (m.set a b).wf = true := by
  unfold Memory.set
  split
  · exact Memory.wfAbove_erase a h
  · next hb => exact Memory.wfAbove_put h (Nat.zero_le a) hb

theorem Memory.inRam_erase {m : Memory} (a : Nat) (h : m.inRam = true) : (m.erase a).inRam = true := by
  induction m with
  | nil => rfl
  | cons e m ih =>
    obtain ⟨k, b⟩ := e
    simp only [Memory.inRam, List.all_cons, Bool.and_eq_true] at h ih
    by_cases hk : k = a
    · rw [Memory.erase, if_pos hk]; exact ih h.2
    · rw [Memory.erase, if_neg hk]
      simp only [Memory.inRam, List.all_cons, Bool.and_eq_true]
      exact ⟨h.1, ih h.2⟩

theorem Memory.inRam_put {m : Memory} {a : Nat} (b : Byte) (h : m.inRam = true) (ha : 0x200 ≤ a ∧ a ≤ 0xFFF) :
    (m.put a b).inRam = true := by
  induction m with
  | nil => simp [Memory.put, Memory.inRam, ha]
  | cons e m ih =>
    obtain ⟨k, c⟩ := e
    simp only [Memory.inRam, List.all_cons, Bool.and_eq_true] at h ih
    by_cases h1 : a < k
    · rw [Memory.put, if_pos h1]; simp only [Memory.inRam, List.all_cons, Bool.and_eq_true]
      exact ⟨by simpa using ha, h⟩
    · by_cases h2 : k = a
      · rw [Memory.put, if_neg h1, if_pos h2]; simp only [Memory.inRam, List.all_cons, Bool.and_eq_true]
        exact ⟨by simpa using ha, h.2⟩
      · rw [Memory.put, if_neg h1, if_neg h2]; simp only [Memory.inRam, List.all_cons, Bool.and_eq_true]
        exact ⟨h.1, ih h.2⟩

/-- A write to the writable range lists nothing outside it. -/
theorem Memory.inRam_set {m : Memory} {a : Nat} (b : Byte) (h : m.inRam = true) (ha : 0x200 ≤ a ∧ a ≤ 0xFFF) :
    (m.set a b).inRam = true := by
  unfold Memory.set
  split
  · exact Memory.inRam_erase a h
  · exact Memory.inRam_put b h ha

/-- Outside the writable range such a memory reads as its reset contents: the font is immutable. -/
theorem Memory.read_of_inRam {m : Memory} (h : m.inRam = true) {a : Nat} (ha : a < 0x200 ∨ 0xFFF < a) :
    m.read a = Memory.initialByte a := by
  induction m with
  | nil => rfl
  | cons e m ih =>
    obtain ⟨k, b⟩ := e
    simp only [Memory.inRam, List.all_cons, Bool.and_eq_true, decide_eq_true_eq] at h
    have hk : k ≠ a := by omega
    simp [Memory.read, hk, ih h.2]

/-- What a store of several bytes leaves to read: its own bytes in its span, everything else as before. -/
theorem Memory.read_store (m : Memory) (a : Nat) (bs : List Byte) (c : Nat) :
    (m.store a bs).read c = if a ≤ c then (bs[c - a]?).getD (m.read c) else m.read c := by
  induction bs generalizing m a with
  | nil => simp [Memory.store]
  | cons b bs ih =>
    rw [Memory.store, ih, Memory.read_set]
    rcases Nat.lt_trichotomy c a with h | h | h
    · simp [show ¬ a + 1 ≤ c by omega, show ¬ a ≤ c by omega, show c ≠ a by omega]
    · subst h; simp
    · have : c - a = (c - (a + 1)) + 1 := by omega
      simp [show a + 1 ≤ c by omega, show a ≤ c by omega, show c ≠ a by omega, this]

theorem Memory.read_store_outside (m : Memory) (a : Nat) (bs : List Byte) (c : Nat)
    (h : c < a ∨ a + bs.length ≤ c) : (m.store a bs).read c = m.read c := by
  rw [Memory.read_store]
  split
  · rw [List.getElem?_eq_none (by omega)]; rfl
  · rfl

theorem Memory.wf_store {m : Memory} (a : Nat) (bs : List Byte) (h : m.wf = true) : (m.store a bs).wf = true := by
  induction bs generalizing m a with
  | nil => exact h
  | cons b bs ih => exact ih (a + 1) (Memory.wf_set a b h)

theorem Memory.inRam_store {m : Memory} {a : Nat} (bs : List Byte) (h : m.inRam = true)
    (ha : 0x200 ≤ a) (hb : a + bs.length ≤ 0x1000) : (m.store a bs).inRam = true := by
  induction bs generalizing m a with
  | nil => exact h
  | cons b bs ih =>
    simp only [List.length_cons] at hb
    exact ih (Memory.inRam_set b h ⟨ha, by omega⟩) (by omega) (by omega)

theorem Memory.load_length (m : Memory) (a n : Nat) : (m.load a n).length = n := by
  induction n generalizing a with
  | zero => rfl
  | succ n ih => simp [Memory.load, ih]

theorem Memory.load_get (m : Memory) (a n k : Nat) :
    (m.load a n)[k]? = if k < n then some (m.read (a + k)) else none := by
  induction n generalizing a k with
  | zero => simp [Memory.load]
  | succ n ih =>
    cases k with
    | zero => simp [Memory.load]
    | succ k => simp [Memory.load, ih, Nat.add_assoc, Nat.add_comm 1 k]

theorem Memory.read_of_wfAbove {lo : Nat} {m : Memory} (h : Memory.wfAbove lo m = true) {a : Nat} (ha : a < lo) :
    m.read a = Memory.initialByte a := by
  induction m generalizing lo with
  | nil => rfl
  | cons e m ih =>
    obtain ⟨k, b⟩ := e
    simp only [Memory.wfAbove, Bool.and_eq_true, decide_eq_true_eq] at h
    have hk : k ≠ a := by omega
    simp [Memory.read, hk, ih h.2 (by omega)]

theorem Memory.ext_of_wfAbove {lo : Nat} {m m' : Memory} (h : Memory.wfAbove lo m = true)
    (h' : Memory.wfAbove lo m' = true) (hr : ∀ a, m.read a = m'.read a) : m = m' := by
  induction m generalizing lo m' with
  | nil =>
    cases m' with
    | nil => rfl
    | cons e m' =>
      obtain ⟨k, b⟩ := e
      have := hr k
      simp [Memory.wfAbove, Memory.read] at h' this
      exact absurd this.symm h'.1.2
  | cons e m ih =>
    obtain ⟨k, b⟩ := e
    simp only [Memory.wfAbove, Bool.and_eq_true, decide_eq_true_eq, bne_iff_ne, ne_eq] at h
    cases m' with
    | nil =>
      have := hr k
      simp [Memory.read] at this
      exact absurd this h.1.2
    | cons e' m' =>
      obtain ⟨k', b'⟩ := e'
      simp only [Memory.wfAbove, Bool.and_eq_true, decide_eq_true_eq, bne_iff_ne, ne_eq] at h'
      have hk : k = k' := by
        rcases Nat.lt_trichotomy k k' with hlt | heq | hgt
        · have e1 := hr k
          have e2 := Memory.read_of_wfAbove h'.2 (a := k) (by omega)
          simp only [Memory.read, if_neg (show k' ≠ k by omega), if_true] at e1
          exact absurd (e1.trans e2) h.1.2
        · exact heq
        · have e1 := hr k'
          have e2 := Memory.read_of_wfAbove h.2 (a := k') (by omega)
          simp only [Memory.read, if_neg (show k ≠ k' by omega), if_true] at e1
          exact absurd (e1.symm.trans e2) h'.1.2
      subst hk
      have hb : b = b' := by simpa [Memory.read] using hr k
      subst hb
      have hm : m = m' := ih h.2 h'.2 (fun a => by
        by_cases ha : k = a
        · subst ha
          rw [Memory.read_of_wfAbove h.2 (by omega), Memory.read_of_wfAbove h'.2 (by omega)]
        · simpa [Memory.read, ha] using hr a)
      rw [hm]

/-- Equal memories are equal data: two canonical memories that read alike are the same list. -/
theorem Memory.ext_of_wf {m m' : Memory} (h : m.wf = true) (h' : m'.wf = true)
    (hr : ∀ a, m.read a = m'.read a) : m = m' :=
  Memory.ext_of_wfAbove h h' hr

end Sys2Proof.Machine
end

