-- ==== Sys2Proof/Laws/State.lean ====
section
/-! SUPPORT. One lemma per field per named update of the state, so that no later proof unfolds a record update. -/

namespace Sys2Proof.Machine

variable (s : State)

/-! #### setV -/
@[simp] theorem State.setV_v (x : RegIndex) (b : Byte) : (s.setV x b).v = s.v.set x b := rfl
@[simp] theorem State.setV_i (x : RegIndex) (b : Byte) : (s.setV x b).i = s.i := rfl
@[simp] theorem State.setV_pc (x : RegIndex) (b : Byte) : (s.setV x b).pc = s.pc := rfl
@[simp] theorem State.setV_stack (x : RegIndex) (b : Byte) : (s.setV x b).stack = s.stack := rfl
@[simp] theorem State.setV_sp (x : RegIndex) (b : Byte) : (s.setV x b).sp = s.sp := rfl
@[simp] theorem State.setV_dt (x : RegIndex) (b : Byte) : (s.setV x b).dt = s.dt := rfl
@[simp] theorem State.setV_st (x : RegIndex) (b : Byte) : (s.setV x b).st = s.st := rfl
@[simp] theorem State.setV_mem (x : RegIndex) (b : Byte) : (s.setV x b).mem = s.mem := rfl
@[simp] theorem State.setV_fb (x : RegIndex) (b : Byte) : (s.setV x b).fb = s.fb := rfl
@[simp] theorem State.setV_dirty (x : RegIndex) (b : Byte) : (s.setV x b).dirty = s.dirty := rfl
@[simp] theorem State.setV_keys (x : RegIndex) (b : Byte) : (s.setV x b).keys = s.keys := rfl
@[simp] theorem State.setV_waiting (x : RegIndex) (b : Byte) : (s.setV x b).waiting = s.waiting := rfl
@[simp] theorem State.setV_keyReg (x : RegIndex) (b : Byte) : (s.setV x b).keyReg = s.keyReg := rfl
@[simp] theorem State.setV_halted (x : RegIndex) (b : Byte) : (s.setV x b).halted = s.halted := rfl
@[simp] theorem State.setV_faultCause (x : RegIndex) (b : Byte) : (s.setV x b).faultCause = s.faultCause := rfl
@[simp] theorem State.setV_faultPc (x : RegIndex) (b : Byte) : (s.setV x b).faultPc = s.faultPc := rfl
@[simp] theorem State.setV_faultOpcode (x : RegIndex) (b : Byte) : (s.setV x b).faultOpcode = s.faultOpcode := rfl
@[simp] theorem State.setV_faultSp (x : RegIndex) (b : Byte) : (s.setV x b).faultSp = s.faultSp := rfl
@[simp] theorem State.setV_rndIn (x : RegIndex) (b : Byte) : (s.setV x b).rndIn = s.rndIn := rfl
@[simp] theorem State.setV_stepIndex (x : RegIndex) (b : Byte) : (s.setV x b).stepIndex = s.stepIndex := rfl

/-! #### setVs -/
@[simp] theorem State.setVs_v (w : Vector Byte 16) : (s.setVs w).v = w := rfl
@[simp] theorem State.setVs_i (w : Vector Byte 16) : (s.setVs w).i = s.i := rfl
@[simp] theorem State.setVs_pc (w : Vector Byte 16) : (s.setVs w).pc = s.pc := rfl
@[simp] theorem State.setVs_stack (w : Vector Byte 16) : (s.setVs w).stack = s.stack := rfl
@[simp] theorem State.setVs_sp (w : Vector Byte 16) : (s.setVs w).sp = s.sp := rfl
@[simp] theorem State.setVs_dt (w : Vector Byte 16) : (s.setVs w).dt = s.dt := rfl
@[simp] theorem State.setVs_st (w : Vector Byte 16) : (s.setVs w).st = s.st := rfl
@[simp] theorem State.setVs_mem (w : Vector Byte 16) : (s.setVs w).mem = s.mem := rfl
@[simp] theorem State.setVs_fb (w : Vector Byte 16) : (s.setVs w).fb = s.fb := rfl
@[simp] theorem State.setVs_dirty (w : Vector Byte 16) : (s.setVs w).dirty = s.dirty := rfl
@[simp] theorem State.setVs_keys (w : Vector Byte 16) : (s.setVs w).keys = s.keys := rfl
@[simp] theorem State.setVs_waiting (w : Vector Byte 16) : (s.setVs w).waiting = s.waiting := rfl
@[simp] theorem State.setVs_keyReg (w : Vector Byte 16) : (s.setVs w).keyReg = s.keyReg := rfl
@[simp] theorem State.setVs_halted (w : Vector Byte 16) : (s.setVs w).halted = s.halted := rfl
@[simp] theorem State.setVs_faultCause (w : Vector Byte 16) : (s.setVs w).faultCause = s.faultCause := rfl
@[simp] theorem State.setVs_faultPc (w : Vector Byte 16) : (s.setVs w).faultPc = s.faultPc := rfl
@[simp] theorem State.setVs_faultOpcode (w : Vector Byte 16) : (s.setVs w).faultOpcode = s.faultOpcode := rfl
@[simp] theorem State.setVs_faultSp (w : Vector Byte 16) : (s.setVs w).faultSp = s.faultSp := rfl
@[simp] theorem State.setVs_rndIn (w : Vector Byte 16) : (s.setVs w).rndIn = s.rndIn := rfl
@[simp] theorem State.setVs_stepIndex (w : Vector Byte 16) : (s.setVs w).stepIndex = s.stepIndex := rfl

/-! #### setI -/
@[simp] theorem State.setI_v (w : Word) : (s.setI w).v = s.v := rfl
@[simp] theorem State.setI_i (w : Word) : (s.setI w).i = w := rfl
@[simp] theorem State.setI_pc (w : Word) : (s.setI w).pc = s.pc := rfl
@[simp] theorem State.setI_stack (w : Word) : (s.setI w).stack = s.stack := rfl
@[simp] theorem State.setI_sp (w : Word) : (s.setI w).sp = s.sp := rfl
@[simp] theorem State.setI_dt (w : Word) : (s.setI w).dt = s.dt := rfl
@[simp] theorem State.setI_st (w : Word) : (s.setI w).st = s.st := rfl
@[simp] theorem State.setI_mem (w : Word) : (s.setI w).mem = s.mem := rfl
@[simp] theorem State.setI_fb (w : Word) : (s.setI w).fb = s.fb := rfl
@[simp] theorem State.setI_dirty (w : Word) : (s.setI w).dirty = s.dirty := rfl
@[simp] theorem State.setI_keys (w : Word) : (s.setI w).keys = s.keys := rfl
@[simp] theorem State.setI_waiting (w : Word) : (s.setI w).waiting = s.waiting := rfl
@[simp] theorem State.setI_keyReg (w : Word) : (s.setI w).keyReg = s.keyReg := rfl
@[simp] theorem State.setI_halted (w : Word) : (s.setI w).halted = s.halted := rfl
@[simp] theorem State.setI_faultCause (w : Word) : (s.setI w).faultCause = s.faultCause := rfl
@[simp] theorem State.setI_faultPc (w : Word) : (s.setI w).faultPc = s.faultPc := rfl
@[simp] theorem State.setI_faultOpcode (w : Word) : (s.setI w).faultOpcode = s.faultOpcode := rfl
@[simp] theorem State.setI_faultSp (w : Word) : (s.setI w).faultSp = s.faultSp := rfl
@[simp] theorem State.setI_rndIn (w : Word) : (s.setI w).rndIn = s.rndIn := rfl
@[simp] theorem State.setI_stepIndex (w : Word) : (s.setI w).stepIndex = s.stepIndex := rfl
@[simp] theorem State.setI_reg (w : Word) (r : RegIndex) : (s.setI w).reg r = s.reg r := rfl

/-! #### setPc -/
@[simp] theorem State.setPc_v (w : Word) : (s.setPc w).v = s.v := rfl
@[simp] theorem State.setPc_i (w : Word) : (s.setPc w).i = s.i := rfl
@[simp] theorem State.setPc_pc (w : Word) : (s.setPc w).pc = w := rfl
@[simp] theorem State.setPc_stack (w : Word) : (s.setPc w).stack = s.stack := rfl
@[simp] theorem State.setPc_sp (w : Word) : (s.setPc w).sp = s.sp := rfl
@[simp] theorem State.setPc_dt (w : Word) : (s.setPc w).dt = s.dt := rfl
@[simp] theorem State.setPc_st (w : Word) : (s.setPc w).st = s.st := rfl
@[simp] theorem State.setPc_mem (w : Word) : (s.setPc w).mem = s.mem := rfl
@[simp] theorem State.setPc_fb (w : Word) : (s.setPc w).fb = s.fb := rfl
@[simp] theorem State.setPc_dirty (w : Word) : (s.setPc w).dirty = s.dirty := rfl
@[simp] theorem State.setPc_keys (w : Word) : (s.setPc w).keys = s.keys := rfl
@[simp] theorem State.setPc_waiting (w : Word) : (s.setPc w).waiting = s.waiting := rfl
@[simp] theorem State.setPc_keyReg (w : Word) : (s.setPc w).keyReg = s.keyReg := rfl
@[simp] theorem State.setPc_halted (w : Word) : (s.setPc w).halted = s.halted := rfl
@[simp] theorem State.setPc_faultCause (w : Word) : (s.setPc w).faultCause = s.faultCause := rfl
@[simp] theorem State.setPc_faultPc (w : Word) : (s.setPc w).faultPc = s.faultPc := rfl
@[simp] theorem State.setPc_faultOpcode (w : Word) : (s.setPc w).faultOpcode = s.faultOpcode := rfl
@[simp] theorem State.setPc_faultSp (w : Word) : (s.setPc w).faultSp = s.faultSp := rfl
@[simp] theorem State.setPc_rndIn (w : Word) : (s.setPc w).rndIn = s.rndIn := rfl
@[simp] theorem State.setPc_stepIndex (w : Word) : (s.setPc w).stepIndex = s.stepIndex := rfl
@[simp] theorem State.setPc_reg (w : Word) (r : RegIndex) : (s.setPc w).reg r = s.reg r := rfl

/-! #### advance -/
@[simp] theorem State.advance_v : (s.advance).v = s.v := rfl
@[simp] theorem State.advance_i : (s.advance).i = s.i := rfl
@[simp] theorem State.advance_pc : (s.advance).pc = s.pc + 2 := rfl
@[simp] theorem State.advance_stack : (s.advance).stack = s.stack := rfl
@[simp] theorem State.advance_sp : (s.advance).sp = s.sp := rfl
@[simp] theorem State.advance_dt : (s.advance).dt = s.dt := rfl
@[simp] theorem State.advance_st : (s.advance).st = s.st := rfl
@[simp] theorem State.advance_mem : (s.advance).mem = s.mem := rfl
@[simp] theorem State.advance_fb : (s.advance).fb = s.fb := rfl
@[simp] theorem State.advance_dirty : (s.advance).dirty = s.dirty := rfl
@[simp] theorem State.advance_keys : (s.advance).keys = s.keys := rfl
@[simp] theorem State.advance_waiting : (s.advance).waiting = s.waiting := rfl
@[simp] theorem State.advance_keyReg : (s.advance).keyReg = s.keyReg := rfl
@[simp] theorem State.advance_halted : (s.advance).halted = s.halted := rfl
@[simp] theorem State.advance_faultCause : (s.advance).faultCause = s.faultCause := rfl
@[simp] theorem State.advance_faultPc : (s.advance).faultPc = s.faultPc := rfl
@[simp] theorem State.advance_faultOpcode : (s.advance).faultOpcode = s.faultOpcode := rfl
@[simp] theorem State.advance_faultSp : (s.advance).faultSp = s.faultSp := rfl
@[simp] theorem State.advance_rndIn : (s.advance).rndIn = s.rndIn := rfl
@[simp] theorem State.advance_stepIndex : (s.advance).stepIndex = s.stepIndex := rfl
@[simp] theorem State.advance_reg (r : RegIndex) : (s.advance).reg r = s.reg r := rfl

/-! #### skipIf -/
@[simp] theorem State.skipIf_v (c : Bool) : (s.skipIf c).v = s.v := rfl
@[simp] theorem State.skipIf_i (c : Bool) : (s.skipIf c).i = s.i := rfl
@[simp] theorem State.skipIf_pc (c : Bool) : (s.skipIf c).pc = if c then s.pc + 4 else s.pc + 2 := rfl
@[simp] theorem State.skipIf_stack (c : Bool) : (s.skipIf c).stack = s.stack := rfl
@[simp] theorem State.skipIf_sp (c : Bool) : (s.skipIf c).sp = s.sp := rfl
@[simp] theorem State.skipIf_dt (c : Bool) : (s.skipIf c).dt = s.dt := rfl
@[simp] theorem State.skipIf_st (c : Bool) : (s.skipIf c).st = s.st := rfl
@[simp] theorem State.skipIf_mem (c : Bool) : (s.skipIf c).mem = s.mem := rfl
@[simp] theorem State.skipIf_fb (c : Bool) : (s.skipIf c).fb = s.fb := rfl
@[simp] theorem State.skipIf_dirty (c : Bool) : (s.skipIf c).dirty = s.dirty := rfl
@[simp] theorem State.skipIf_keys (c : Bool) : (s.skipIf c).keys = s.keys := rfl
@[simp] theorem State.skipIf_waiting (c : Bool) : (s.skipIf c).waiting = s.waiting := rfl
@[simp] theorem State.skipIf_keyReg (c : Bool) : (s.skipIf c).keyReg = s.keyReg := rfl
@[simp] theorem State.skipIf_halted (c : Bool) : (s.skipIf c).halted = s.halted := rfl
@[simp] theorem State.skipIf_faultCause (c : Bool) : (s.skipIf c).faultCause = s.faultCause := rfl
@[simp] theorem State.skipIf_faultPc (c : Bool) : (s.skipIf c).faultPc = s.faultPc := rfl
@[simp] theorem State.skipIf_faultOpcode (c : Bool) : (s.skipIf c).faultOpcode = s.faultOpcode := rfl
@[simp] theorem State.skipIf_faultSp (c : Bool) : (s.skipIf c).faultSp = s.faultSp := rfl
@[simp] theorem State.skipIf_rndIn (c : Bool) : (s.skipIf c).rndIn = s.rndIn := rfl
@[simp] theorem State.skipIf_stepIndex (c : Bool) : (s.skipIf c).stepIndex = s.stepIndex := rfl
@[simp] theorem State.skipIf_reg (c : Bool) (r : RegIndex) : (s.skipIf c).reg r = s.reg r := rfl

/-! #### setDt -/
@[simp] theorem State.setDt_v (b : Byte) : (s.setDt b).v = s.v := rfl
@[simp] theorem State.setDt_i (b : Byte) : (s.setDt b).i = s.i := rfl
@[simp] theorem State.setDt_pc (b : Byte) : (s.setDt b).pc = s.pc := rfl
@[simp] theorem State.setDt_stack (b : Byte) : (s.setDt b).stack = s.stack := rfl
@[simp] theorem State.setDt_sp (b : Byte) : (s.setDt b).sp = s.sp := rfl
@[simp] theorem State.setDt_dt (b : Byte) : (s.setDt b).dt = b := rfl
@[simp] theorem State.setDt_st (b : Byte) : (s.setDt b).st = s.st := rfl
@[simp] theorem State.setDt_mem (b : Byte) : (s.setDt b).mem = s.mem := rfl
@[simp] theorem State.setDt_fb (b : Byte) : (s.setDt b).fb = s.fb := rfl
@[simp] theorem State.setDt_dirty (b : Byte) : (s.setDt b).dirty = s.dirty := rfl
@[simp] theorem State.setDt_keys (b : Byte) : (s.setDt b).keys = s.keys := rfl
@[simp] theorem State.setDt_waiting (b : Byte) : (s.setDt b).waiting = s.waiting := rfl
@[simp] theorem State.setDt_keyReg (b : Byte) : (s.setDt b).keyReg = s.keyReg := rfl
@[simp] theorem State.setDt_halted (b : Byte) : (s.setDt b).halted = s.halted := rfl
@[simp] theorem State.setDt_faultCause (b : Byte) : (s.setDt b).faultCause = s.faultCause := rfl
@[simp] theorem State.setDt_faultPc (b : Byte) : (s.setDt b).faultPc = s.faultPc := rfl
@[simp] theorem State.setDt_faultOpcode (b : Byte) : (s.setDt b).faultOpcode = s.faultOpcode := rfl
@[simp] theorem State.setDt_faultSp (b : Byte) : (s.setDt b).faultSp = s.faultSp := rfl
@[simp] theorem State.setDt_rndIn (b : Byte) : (s.setDt b).rndIn = s.rndIn := rfl
@[simp] theorem State.setDt_stepIndex (b : Byte) : (s.setDt b).stepIndex = s.stepIndex := rfl
@[simp] theorem State.setDt_reg (b : Byte) (r : RegIndex) : (s.setDt b).reg r = s.reg r := rfl

/-! #### setSt -/
@[simp] theorem State.setSt_v (b : Byte) : (s.setSt b).v = s.v := rfl
@[simp] theorem State.setSt_i (b : Byte) : (s.setSt b).i = s.i := rfl
@[simp] theorem State.setSt_pc (b : Byte) : (s.setSt b).pc = s.pc := rfl
@[simp] theorem State.setSt_stack (b : Byte) : (s.setSt b).stack = s.stack := rfl
@[simp] theorem State.setSt_sp (b : Byte) : (s.setSt b).sp = s.sp := rfl
@[simp] theorem State.setSt_dt (b : Byte) : (s.setSt b).dt = s.dt := rfl
@[simp] theorem State.setSt_st (b : Byte) : (s.setSt b).st = b := rfl
@[simp] theorem State.setSt_mem (b : Byte) : (s.setSt b).mem = s.mem := rfl
@[simp] theorem State.setSt_fb (b : Byte) : (s.setSt b).fb = s.fb := rfl
@[simp] theorem State.setSt_dirty (b : Byte) : (s.setSt b).dirty = s.dirty := rfl
@[simp] theorem State.setSt_keys (b : Byte) : (s.setSt b).keys = s.keys := rfl
@[simp] theorem State.setSt_waiting (b : Byte) : (s.setSt b).waiting = s.waiting := rfl
@[simp] theorem State.setSt_keyReg (b : Byte) : (s.setSt b).keyReg = s.keyReg := rfl
@[simp] theorem State.setSt_halted (b : Byte) : (s.setSt b).halted = s.halted := rfl
@[simp] theorem State.setSt_faultCause (b : Byte) : (s.setSt b).faultCause = s.faultCause := rfl
@[simp] theorem State.setSt_faultPc (b : Byte) : (s.setSt b).faultPc = s.faultPc := rfl
@[simp] theorem State.setSt_faultOpcode (b : Byte) : (s.setSt b).faultOpcode = s.faultOpcode := rfl
@[simp] theorem State.setSt_faultSp (b : Byte) : (s.setSt b).faultSp = s.faultSp := rfl
@[simp] theorem State.setSt_rndIn (b : Byte) : (s.setSt b).rndIn = s.rndIn := rfl
@[simp] theorem State.setSt_stepIndex (b : Byte) : (s.setSt b).stepIndex = s.stepIndex := rfl
@[simp] theorem State.setSt_reg (b : Byte) (r : RegIndex) : (s.setSt b).reg r = s.reg r := rfl

/-! #### storeBytes -/
@[simp] theorem State.storeBytes_v (a : Nat) (bs : List Byte) : (s.storeBytes a bs).v = s.v := rfl
@[simp] theorem State.storeBytes_i (a : Nat) (bs : List Byte) : (s.storeBytes a bs).i = s.i := rfl
@[simp] theorem State.storeBytes_pc (a : Nat) (bs : List Byte) : (s.storeBytes a bs).pc = s.pc := rfl
@[simp] theorem State.storeBytes_stack (a : Nat) (bs : List Byte) : (s.storeBytes a bs).stack = s.stack := rfl
@[simp] theorem State.storeBytes_sp (a : Nat) (bs : List Byte) : (s.storeBytes a bs).sp = s.sp := rfl
@[simp] theorem State.storeBytes_dt (a : Nat) (bs : List Byte) : (s.storeBytes a bs).dt = s.dt := rfl
@[simp] theorem State.storeBytes_st (a : Nat) (bs : List Byte) : (s.storeBytes a bs).st = s.st := rfl
@[simp] theorem State.storeBytes_mem (a : Nat) (bs : List Byte) : (s.storeBytes a bs).mem = s.mem.store a bs := rfl
@[simp] theorem State.storeBytes_fb (a : Nat) (bs : List Byte) : (s.storeBytes a bs).fb = s.fb := rfl
@[simp] theorem State.storeBytes_dirty (a : Nat) (bs : List Byte) : (s.storeBytes a bs).dirty = s.dirty := rfl
@[simp] theorem State.storeBytes_keys (a : Nat) (bs : List Byte) : (s.storeBytes a bs).keys = s.keys := rfl
@[simp] theorem State.storeBytes_waiting (a : Nat) (bs : List Byte) : (s.storeBytes a bs).waiting = s.waiting := rfl
@[simp] theorem State.storeBytes_keyReg (a : Nat) (bs : List Byte) : (s.storeBytes a bs).keyReg = s.keyReg := rfl
@[simp] theorem State.storeBytes_halted (a : Nat) (bs : List Byte) : (s.storeBytes a bs).halted = s.halted := rfl
@[simp] theorem State.storeBytes_faultCause (a : Nat) (bs : List Byte) : (s.storeBytes a bs).faultCause = s.faultCause := rfl
@[simp] theorem State.storeBytes_faultPc (a : Nat) (bs : List Byte) : (s.storeBytes a bs).faultPc = s.faultPc := rfl
@[simp] theorem State.storeBytes_faultOpcode (a : Nat) (bs : List Byte) : (s.storeBytes a bs).faultOpcode = s.faultOpcode := rfl
@[simp] theorem State.storeBytes_faultSp (a : Nat) (bs : List Byte) : (s.storeBytes a bs).faultSp = s.faultSp := rfl
@[simp] theorem State.storeBytes_rndIn (a : Nat) (bs : List Byte) : (s.storeBytes a bs).rndIn = s.rndIn := rfl
@[simp] theorem State.storeBytes_stepIndex (a : Nat) (bs : List Byte) : (s.storeBytes a bs).stepIndex = s.stepIndex := rfl
@[simp] theorem State.storeBytes_reg (a : Nat) (bs : List Byte) (r : RegIndex) : (s.storeBytes a bs).reg r = s.reg r := rfl

/-! #### show -/
@[simp] theorem State.show_v (f : Framebuffer) : (s.show f).v = s.v := rfl
@[simp] theorem State.show_i (f : Framebuffer) : (s.show f).i = s.i := rfl
@[simp] theorem State.show_pc (f : Framebuffer) : (s.show f).pc = s.pc := rfl
@[simp] theorem State.show_stack (f : Framebuffer) : (s.show f).stack = s.stack := rfl
@[simp] theorem State.show_sp (f : Framebuffer) : (s.show f).sp = s.sp := rfl
@[simp] theorem State.show_dt (f : Framebuffer) : (s.show f).dt = s.dt := rfl
@[simp] theorem State.show_st (f : Framebuffer) : (s.show f).st = s.st := rfl
@[simp] theorem State.show_mem (f : Framebuffer) : (s.show f).mem = s.mem := rfl
@[simp] theorem State.show_fb (f : Framebuffer) : (s.show f).fb = f := rfl
@[simp] theorem State.show_dirty (f : Framebuffer) : (s.show f).dirty = true := rfl
@[simp] theorem State.show_keys (f : Framebuffer) : (s.show f).keys = s.keys := rfl
@[simp] theorem State.show_waiting (f : Framebuffer) : (s.show f).waiting = s.waiting := rfl
@[simp] theorem State.show_keyReg (f : Framebuffer) : (s.show f).keyReg = s.keyReg := rfl
@[simp] theorem State.show_halted (f : Framebuffer) : (s.show f).halted = s.halted := rfl
@[simp] theorem State.show_faultCause (f : Framebuffer) : (s.show f).faultCause = s.faultCause := rfl
@[simp] theorem State.show_faultPc (f : Framebuffer) : (s.show f).faultPc = s.faultPc := rfl
@[simp] theorem State.show_faultOpcode (f : Framebuffer) : (s.show f).faultOpcode = s.faultOpcode := rfl
@[simp] theorem State.show_faultSp (f : Framebuffer) : (s.show f).faultSp = s.faultSp := rfl
@[simp] theorem State.show_rndIn (f : Framebuffer) : (s.show f).rndIn = s.rndIn := rfl
@[simp] theorem State.show_stepIndex (f : Framebuffer) : (s.show f).stepIndex = s.stepIndex := rfl
@[simp] theorem State.show_reg (f : Framebuffer) (r : RegIndex) : (s.show f).reg r = s.reg r := rfl

/-! #### drop -/
@[simp] theorem State.drop_v : (s.drop).v = s.v := rfl
@[simp] theorem State.drop_i : (s.drop).i = s.i := rfl
@[simp] theorem State.drop_pc : (s.drop).pc = s.pc := rfl
@[simp] theorem State.drop_stack : (s.drop).stack = s.stack := rfl
@[simp] theorem State.drop_sp : (s.drop).sp = ⟨s.sp.val - 1, by omega⟩ := rfl
@[simp] theorem State.drop_dt : (s.drop).dt = s.dt := rfl
@[simp] theorem State.drop_st : (s.drop).st = s.st := rfl
@[simp] theorem State.drop_mem : (s.drop).mem = s.mem := rfl
@[simp] theorem State.drop_fb : (s.drop).fb = s.fb := rfl
@[simp] theorem State.drop_dirty : (s.drop).dirty = s.dirty := rfl
@[simp] theorem State.drop_keys : (s.drop).keys = s.keys := rfl
@[simp] theorem State.drop_waiting : (s.drop).waiting = s.waiting := rfl
@[simp] theorem State.drop_keyReg : (s.drop).keyReg = s.keyReg := rfl
@[simp] theorem State.drop_halted : (s.drop).halted = s.halted := rfl
@[simp] theorem State.drop_faultCause : (s.drop).faultCause = s.faultCause := rfl
@[simp] theorem State.drop_faultPc : (s.drop).faultPc = s.faultPc := rfl
@[simp] theorem State.drop_faultOpcode : (s.drop).faultOpcode = s.faultOpcode := rfl
@[simp] theorem State.drop_faultSp : (s.drop).faultSp = s.faultSp := rfl
@[simp] theorem State.drop_rndIn : (s.drop).rndIn = s.rndIn := rfl
@[simp] theorem State.drop_stepIndex : (s.drop).stepIndex = s.stepIndex := rfl
@[simp] theorem State.drop_reg (r : RegIndex) : (s.drop).reg r = s.reg r := rfl

/-! #### enterWait -/
@[simp] theorem State.enterWait_v (x : RegIndex) : (s.enterWait x).v = s.v := rfl
@[simp] theorem State.enterWait_i (x : RegIndex) : (s.enterWait x).i = s.i := rfl
@[simp] theorem State.enterWait_pc (x : RegIndex) : (s.enterWait x).pc = s.pc := rfl
@[simp] theorem State.enterWait_stack (x : RegIndex) : (s.enterWait x).stack = s.stack := rfl
@[simp] theorem State.enterWait_sp (x : RegIndex) : (s.enterWait x).sp = s.sp := rfl
@[simp] theorem State.enterWait_dt (x : RegIndex) : (s.enterWait x).dt = s.dt := rfl
@[simp] theorem State.enterWait_st (x : RegIndex) : (s.enterWait x).st = s.st := rfl
@[simp] theorem State.enterWait_mem (x : RegIndex) : (s.enterWait x).mem = s.mem := rfl
@[simp] theorem State.enterWait_fb (x : RegIndex) : (s.enterWait x).fb = s.fb := rfl
@[simp] theorem State.enterWait_dirty (x : RegIndex) : (s.enterWait x).dirty = s.dirty := rfl
@[simp] theorem State.enterWait_keys (x : RegIndex) : (s.enterWait x).keys = s.keys := rfl
@[simp] theorem State.enterWait_waiting (x : RegIndex) : (s.enterWait x).waiting = true := rfl
@[simp] theorem State.enterWait_keyReg (x : RegIndex) : (s.enterWait x).keyReg = x := rfl
@[simp] theorem State.enterWait_halted (x : RegIndex) : (s.enterWait x).halted = s.halted := rfl
@[simp] theorem State.enterWait_faultCause (x : RegIndex) : (s.enterWait x).faultCause = s.faultCause := rfl
@[simp] theorem State.enterWait_faultPc (x : RegIndex) : (s.enterWait x).faultPc = s.faultPc := rfl
@[simp] theorem State.enterWait_faultOpcode (x : RegIndex) : (s.enterWait x).faultOpcode = s.faultOpcode := rfl
@[simp] theorem State.enterWait_faultSp (x : RegIndex) : (s.enterWait x).faultSp = s.faultSp := rfl
@[simp] theorem State.enterWait_rndIn (x : RegIndex) : (s.enterWait x).rndIn = s.rndIn := rfl
@[simp] theorem State.enterWait_stepIndex (x : RegIndex) : (s.enterWait x).stepIndex = s.stepIndex := rfl
@[simp] theorem State.enterWait_reg (x : RegIndex) (r : RegIndex) : (s.enterWait x).reg r = s.reg r := rfl

/-! #### leaveWait -/
@[simp] theorem State.leaveWait_v : (s.leaveWait).v = s.v := rfl
@[simp] theorem State.leaveWait_i : (s.leaveWait).i = s.i := rfl
@[simp] theorem State.leaveWait_pc : (s.leaveWait).pc = s.pc := rfl
@[simp] theorem State.leaveWait_stack : (s.leaveWait).stack = s.stack := rfl
@[simp] theorem State.leaveWait_sp : (s.leaveWait).sp = s.sp := rfl
@[simp] theorem State.leaveWait_dt : (s.leaveWait).dt = s.dt := rfl
@[simp] theorem State.leaveWait_st : (s.leaveWait).st = s.st := rfl
@[simp] theorem State.leaveWait_mem : (s.leaveWait).mem = s.mem := rfl
@[simp] theorem State.leaveWait_fb : (s.leaveWait).fb = s.fb := rfl
@[simp] theorem State.leaveWait_dirty : (s.leaveWait).dirty = s.dirty := rfl
@[simp] theorem State.leaveWait_keys : (s.leaveWait).keys = s.keys := rfl
@[simp] theorem State.leaveWait_waiting : (s.leaveWait).waiting = false := rfl
@[simp] theorem State.leaveWait_keyReg : (s.leaveWait).keyReg = s.keyReg := rfl
@[simp] theorem State.leaveWait_halted : (s.leaveWait).halted = s.halted := rfl
@[simp] theorem State.leaveWait_faultCause : (s.leaveWait).faultCause = s.faultCause := rfl
@[simp] theorem State.leaveWait_faultPc : (s.leaveWait).faultPc = s.faultPc := rfl
@[simp] theorem State.leaveWait_faultOpcode : (s.leaveWait).faultOpcode = s.faultOpcode := rfl
@[simp] theorem State.leaveWait_faultSp : (s.leaveWait).faultSp = s.faultSp := rfl
@[simp] theorem State.leaveWait_rndIn : (s.leaveWait).rndIn = s.rndIn := rfl
@[simp] theorem State.leaveWait_stepIndex : (s.leaveWait).stepIndex = s.stepIndex := rfl
@[simp] theorem State.leaveWait_reg (r : RegIndex) : (s.leaveWait).reg r = s.reg r := rfl

/-! #### tick -/
@[simp] theorem State.tick_v : (s.tick).v = s.v := rfl
@[simp] theorem State.tick_i : (s.tick).i = s.i := rfl
@[simp] theorem State.tick_pc : (s.tick).pc = s.pc := rfl
@[simp] theorem State.tick_stack : (s.tick).stack = s.stack := rfl
@[simp] theorem State.tick_sp : (s.tick).sp = s.sp := rfl
@[simp] theorem State.tick_dt : (s.tick).dt = countDown s.dt := rfl
@[simp] theorem State.tick_st : (s.tick).st = countDown s.st := rfl
@[simp] theorem State.tick_mem : (s.tick).mem = s.mem := rfl
@[simp] theorem State.tick_fb : (s.tick).fb = s.fb := rfl
@[simp] theorem State.tick_dirty : (s.tick).dirty = s.dirty := rfl
@[simp] theorem State.tick_keys : (s.tick).keys = s.keys := rfl
@[simp] theorem State.tick_waiting : (s.tick).waiting = s.waiting := rfl
@[simp] theorem State.tick_keyReg : (s.tick).keyReg = s.keyReg := rfl
@[simp] theorem State.tick_halted : (s.tick).halted = s.halted := rfl
@[simp] theorem State.tick_faultCause : (s.tick).faultCause = s.faultCause := rfl
@[simp] theorem State.tick_faultPc : (s.tick).faultPc = s.faultPc := rfl
@[simp] theorem State.tick_faultOpcode : (s.tick).faultOpcode = s.faultOpcode := rfl
@[simp] theorem State.tick_faultSp : (s.tick).faultSp = s.faultSp := rfl
@[simp] theorem State.tick_rndIn : (s.tick).rndIn = s.rndIn := rfl
@[simp] theorem State.tick_stepIndex : (s.tick).stepIndex = s.stepIndex := rfl
@[simp] theorem State.tick_reg (r : RegIndex) : (s.tick).reg r = s.reg r := rfl

/-! #### tickIf -/
@[simp] theorem State.tickIf_v (p : Bool) : (s.tickIf p).v = s.v := rfl
@[simp] theorem State.tickIf_i (p : Bool) : (s.tickIf p).i = s.i := rfl
@[simp] theorem State.tickIf_pc (p : Bool) : (s.tickIf p).pc = s.pc := rfl
@[simp] theorem State.tickIf_stack (p : Bool) : (s.tickIf p).stack = s.stack := rfl
@[simp] theorem State.tickIf_sp (p : Bool) : (s.tickIf p).sp = s.sp := rfl
@[simp] theorem State.tickIf_dt (p : Bool) : (s.tickIf p).dt = bif p then countDown s.dt else s.dt := rfl
@[simp] theorem State.tickIf_st (p : Bool) : (s.tickIf p).st = bif p then countDown s.st else s.st := rfl
@[simp] theorem State.tickIf_mem (p : Bool) : (s.tickIf p).mem = s.mem := rfl
@[simp] theorem State.tickIf_fb (p : Bool) : (s.tickIf p).fb = s.fb := rfl
@[simp] theorem State.tickIf_dirty (p : Bool) : (s.tickIf p).dirty = s.dirty := rfl
@[simp] theorem State.tickIf_keys (p : Bool) : (s.tickIf p).keys = s.keys := rfl
@[simp] theorem State.tickIf_waiting (p : Bool) : (s.tickIf p).waiting = s.waiting := rfl
@[simp] theorem State.tickIf_keyReg (p : Bool) : (s.tickIf p).keyReg = s.keyReg := rfl
@[simp] theorem State.tickIf_halted (p : Bool) : (s.tickIf p).halted = s.halted := rfl
@[simp] theorem State.tickIf_faultCause (p : Bool) : (s.tickIf p).faultCause = s.faultCause := rfl
@[simp] theorem State.tickIf_faultPc (p : Bool) : (s.tickIf p).faultPc = s.faultPc := rfl
@[simp] theorem State.tickIf_faultOpcode (p : Bool) : (s.tickIf p).faultOpcode = s.faultOpcode := rfl
@[simp] theorem State.tickIf_faultSp (p : Bool) : (s.tickIf p).faultSp = s.faultSp := rfl
@[simp] theorem State.tickIf_rndIn (p : Bool) : (s.tickIf p).rndIn = s.rndIn := rfl
@[simp] theorem State.tickIf_stepIndex (p : Bool) : (s.tickIf p).stepIndex = s.stepIndex := rfl
@[simp] theorem State.tickIf_reg (p : Bool) (r : RegIndex) : (s.tickIf p).reg r = s.reg r := rfl

/-! #### latch -/
@[simp] theorem State.latch_v (inp : HostInput) : (s.latch inp).v = s.v := rfl
@[simp] theorem State.latch_i (inp : HostInput) : (s.latch inp).i = s.i := rfl
@[simp] theorem State.latch_pc (inp : HostInput) : (s.latch inp).pc = s.pc := rfl
@[simp] theorem State.latch_stack (inp : HostInput) : (s.latch inp).stack = s.stack := rfl
@[simp] theorem State.latch_sp (inp : HostInput) : (s.latch inp).sp = s.sp := rfl
@[simp] theorem State.latch_dt (inp : HostInput) : (s.latch inp).dt = s.dt := rfl
@[simp] theorem State.latch_st (inp : HostInput) : (s.latch inp).st = s.st := rfl
@[simp] theorem State.latch_mem (inp : HostInput) : (s.latch inp).mem = s.mem := rfl
@[simp] theorem State.latch_fb (inp : HostInput) : (s.latch inp).fb = s.fb := rfl
@[simp] theorem State.latch_dirty (inp : HostInput) : (s.latch inp).dirty = s.dirty := rfl
@[simp] theorem State.latch_keys (inp : HostInput) : (s.latch inp).keys = inp.keypad := rfl
@[simp] theorem State.latch_waiting (inp : HostInput) : (s.latch inp).waiting = s.waiting := rfl
@[simp] theorem State.latch_keyReg (inp : HostInput) : (s.latch inp).keyReg = s.keyReg := rfl
@[simp] theorem State.latch_halted (inp : HostInput) : (s.latch inp).halted = s.halted := rfl
@[simp] theorem State.latch_faultCause (inp : HostInput) : (s.latch inp).faultCause = s.faultCause := rfl
@[simp] theorem State.latch_faultPc (inp : HostInput) : (s.latch inp).faultPc = s.faultPc := rfl
@[simp] theorem State.latch_faultOpcode (inp : HostInput) : (s.latch inp).faultOpcode = s.faultOpcode := rfl
@[simp] theorem State.latch_faultSp (inp : HostInput) : (s.latch inp).faultSp = s.faultSp := rfl
@[simp] theorem State.latch_rndIn (inp : HostInput) : (s.latch inp).rndIn = inp.rnd := rfl
@[simp] theorem State.latch_stepIndex (inp : HostInput) : (s.latch inp).stepIndex = s.stepIndex := rfl
@[simp] theorem State.latch_reg (inp : HostInput) (r : RegIndex) : (s.latch inp).reg r = s.reg r := rfl

/-! #### between -/
@[simp] theorem State.between_v (a : Bool) : (s.between a).v = s.v := rfl
@[simp] theorem State.between_i (a : Bool) : (s.between a).i = s.i := rfl
@[simp] theorem State.between_pc (a : Bool) : (s.between a).pc = s.pc := rfl
@[simp] theorem State.between_stack (a : Bool) : (s.between a).stack = s.stack := rfl
@[simp] theorem State.between_sp (a : Bool) : (s.between a).sp = s.sp := rfl
@[simp] theorem State.between_dt (a : Bool) : (s.between a).dt = s.dt := rfl
@[simp] theorem State.between_st (a : Bool) : (s.between a).st = s.st := rfl
@[simp] theorem State.between_mem (a : Bool) : (s.between a).mem = s.mem := rfl
@[simp] theorem State.between_fb (a : Bool) : (s.between a).fb = s.fb := rfl
@[simp] theorem State.between_dirty (a : Bool) : (s.between a).dirty = (s.dirty && !a) := rfl
@[simp] theorem State.between_keys (a : Bool) : (s.between a).keys = s.keys := rfl
@[simp] theorem State.between_waiting (a : Bool) : (s.between a).waiting = s.waiting := rfl
@[simp] theorem State.between_keyReg (a : Bool) : (s.between a).keyReg = s.keyReg := rfl
@[simp] theorem State.between_halted (a : Bool) : (s.between a).halted = s.halted := rfl
@[simp] theorem State.between_faultCause (a : Bool) : (s.between a).faultCause = s.faultCause := rfl
@[simp] theorem State.between_faultPc (a : Bool) : (s.between a).faultPc = s.faultPc := rfl
@[simp] theorem State.between_faultOpcode (a : Bool) : (s.between a).faultOpcode = s.faultOpcode := rfl
@[simp] theorem State.between_faultSp (a : Bool) : (s.between a).faultSp = s.faultSp := rfl
@[simp] theorem State.between_rndIn (a : Bool) : (s.between a).rndIn = s.rndIn := rfl
@[simp] theorem State.between_stepIndex (a : Bool) : (s.between a).stepIndex = s.stepIndex + 1 := rfl
@[simp] theorem State.between_reg (a : Bool) (r : RegIndex) : (s.between a).reg r = s.reg r := rfl

/-! #### raise -/
@[simp] theorem State.raise_v (f : Fault) (op : Word) : (s.raise f op).v = s.v := rfl
@[simp] theorem State.raise_i (f : Fault) (op : Word) : (s.raise f op).i = s.i := rfl
@[simp] theorem State.raise_pc (f : Fault) (op : Word) : (s.raise f op).pc = s.pc := rfl
@[simp] theorem State.raise_stack (f : Fault) (op : Word) : (s.raise f op).stack = s.stack := rfl
@[simp] theorem State.raise_sp (f : Fault) (op : Word) : (s.raise f op).sp = s.sp := rfl
@[simp] theorem State.raise_dt (f : Fault) (op : Word) : (s.raise f op).dt = s.dt := rfl
@[simp] theorem State.raise_st (f : Fault) (op : Word) : (s.raise f op).st = s.st := rfl
@[simp] theorem State.raise_mem (f : Fault) (op : Word) : (s.raise f op).mem = s.mem := rfl
@[simp] theorem State.raise_fb (f : Fault) (op : Word) : (s.raise f op).fb = s.fb := rfl
@[simp] theorem State.raise_dirty (f : Fault) (op : Word) : (s.raise f op).dirty = s.dirty := rfl
@[simp] theorem State.raise_keys (f : Fault) (op : Word) : (s.raise f op).keys = s.keys := rfl
@[simp] theorem State.raise_waiting (f : Fault) (op : Word) : (s.raise f op).waiting = s.waiting := rfl
@[simp] theorem State.raise_keyReg (f : Fault) (op : Word) : (s.raise f op).keyReg = s.keyReg := rfl
@[simp] theorem State.raise_halted (f : Fault) (op : Word) : (s.raise f op).halted = true := rfl
@[simp] theorem State.raise_faultCause (f : Fault) (op : Word) : (s.raise f op).faultCause = f.code := rfl
@[simp] theorem State.raise_faultPc (f : Fault) (op : Word) : (s.raise f op).faultPc = s.pc := rfl
@[simp] theorem State.raise_faultOpcode (f : Fault) (op : Word) : (s.raise f op).faultOpcode = op := rfl
@[simp] theorem State.raise_faultSp (f : Fault) (op : Word) : (s.raise f op).faultSp = s.sp := rfl
@[simp] theorem State.raise_rndIn (f : Fault) (op : Word) : (s.raise f op).rndIn = s.rndIn := rfl
@[simp] theorem State.raise_stepIndex (f : Fault) (op : Word) : (s.raise f op).stepIndex = s.stepIndex := rfl
@[simp] theorem State.raise_reg (f : Fault) (op : Word) (r : RegIndex) : (s.raise f op).reg r = s.reg r := rfl

/-! #### push -/
@[simp] theorem State.push_v (a : Word) : (s.push a).v = s.v := by unfold State.push; split <;> rfl
@[simp] theorem State.push_i (a : Word) : (s.push a).i = s.i := by unfold State.push; split <;> rfl
@[simp] theorem State.push_pc (a : Word) : (s.push a).pc = s.pc := by unfold State.push; split <;> rfl
@[simp] theorem State.push_dt (a : Word) : (s.push a).dt = s.dt := by unfold State.push; split <;> rfl
@[simp] theorem State.push_st (a : Word) : (s.push a).st = s.st := by unfold State.push; split <;> rfl
@[simp] theorem State.push_mem (a : Word) : (s.push a).mem = s.mem := by unfold State.push; split <;> rfl
@[simp] theorem State.push_fb (a : Word) : (s.push a).fb = s.fb := by unfold State.push; split <;> rfl
@[simp] theorem State.push_dirty (a : Word) : (s.push a).dirty = s.dirty := by unfold State.push; split <;> rfl
@[simp] theorem State.push_keys (a : Word) : (s.push a).keys = s.keys := by unfold State.push; split <;> rfl
@[simp] theorem State.push_waiting (a : Word) : (s.push a).waiting = s.waiting := by unfold State.push; split <;> rfl
@[simp] theorem State.push_keyReg (a : Word) : (s.push a).keyReg = s.keyReg := by unfold State.push; split <;> rfl
@[simp] theorem State.push_halted (a : Word) : (s.push a).halted = s.halted := by unfold State.push; split <;> rfl
@[simp] theorem State.push_faultCause (a : Word) : (s.push a).faultCause = s.faultCause := by unfold State.push; split <;> rfl
@[simp] theorem State.push_faultPc (a : Word) : (s.push a).faultPc = s.faultPc := by unfold State.push; split <;> rfl
@[simp] theorem State.push_faultOpcode (a : Word) : (s.push a).faultOpcode = s.faultOpcode := by unfold State.push; split <;> rfl
@[simp] theorem State.push_faultSp (a : Word) : (s.push a).faultSp = s.faultSp := by unfold State.push; split <;> rfl
@[simp] theorem State.push_rndIn (a : Word) : (s.push a).rndIn = s.rndIn := by unfold State.push; split <;> rfl
@[simp] theorem State.push_stepIndex (a : Word) : (s.push a).stepIndex = s.stepIndex := by unfold State.push; split <;> rfl
@[simp] theorem State.push_reg (a : Word) (r : RegIndex) : (s.push a).reg r = s.reg r := by
  simp [State.reg]
theorem State.push_stack (a : Word) (h : s.sp.val < 16) : (s.push a).stack = s.stack.set s.sp.val a := by
  simp [State.push, h]
theorem State.push_sp (a : Word) (h : s.sp.val < 16) : (s.push a).sp.val = s.sp.val + 1 := by
  simp [State.push, h]

/-! #### registers -/

/-- A register reads what was written to it; every other register is unchanged. -/
@[simp] theorem State.setV_reg (x : RegIndex) (b : Byte) (r : RegIndex) :
    (s.setV x b).reg r = if r = x then b else s.reg r := by
  by_cases h : r = x
  · subst h; simp [State.reg]
  · have h' : x.val ≠ r.val := fun e => h (Fin.ext e.symm)
    simp [State.reg, h, h']

@[simp] theorem State.setVs_reg (w : Vector Byte 16) (r : RegIndex) : (s.setVs w).reg r = w[r.val] := rfl

/-- The result of a flagged instruction: VF holds the flag, even where VF is the destination (spec/42_load_alu.md R150). -/
@[simp] theorem State.setResult_reg (x : RegIndex) (b : Byte) (c : Bool) (r : RegIndex) :
    (s.setResult x b c).reg r = if r = vf then flagByte c else if r = x then b else s.reg r := by
  simp [State.setResult]

@[simp] theorem State.setResult_i (x : RegIndex) (b : Byte) (c : Bool) : (s.setResult x b c).i = s.i := rfl
@[simp] theorem State.setResult_pc (x : RegIndex) (b : Byte) (c : Bool) : (s.setResult x b c).pc = s.pc := rfl
@[simp] theorem State.setResult_stack (x : RegIndex) (b : Byte) (c : Bool) : (s.setResult x b c).stack = s.stack := rfl
@[simp] theorem State.setResult_sp (x : RegIndex) (b : Byte) (c : Bool) : (s.setResult x b c).sp = s.sp := rfl
@[simp] theorem State.setResult_dt (x : RegIndex) (b : Byte) (c : Bool) : (s.setResult x b c).dt = s.dt := rfl
@[simp] theorem State.setResult_st (x : RegIndex) (b : Byte) (c : Bool) : (s.setResult x b c).st = s.st := rfl
@[simp] theorem State.setResult_mem (x : RegIndex) (b : Byte) (c : Bool) : (s.setResult x b c).mem = s.mem := rfl
@[simp] theorem State.setResult_fb (x : RegIndex) (b : Byte) (c : Bool) : (s.setResult x b c).fb = s.fb := rfl
@[simp] theorem State.setResult_dirty (x : RegIndex) (b : Byte) (c : Bool) : (s.setResult x b c).dirty = s.dirty := rfl
@[simp] theorem State.setResult_keys (x : RegIndex) (b : Byte) (c : Bool) : (s.setResult x b c).keys = s.keys := rfl
@[simp] theorem State.setResult_waiting (x : RegIndex) (b : Byte) (c : Bool) : (s.setResult x b c).waiting = s.waiting := rfl
@[simp] theorem State.setResult_keyReg (x : RegIndex) (b : Byte) (c : Bool) : (s.setResult x b c).keyReg = s.keyReg := rfl
@[simp] theorem State.setResult_halted (x : RegIndex) (b : Byte) (c : Bool) : (s.setResult x b c).halted = s.halted := rfl
@[simp] theorem State.setResult_faultCause (x : RegIndex) (b : Byte) (c : Bool) : (s.setResult x b c).faultCause = s.faultCause := rfl
@[simp] theorem State.setResult_faultPc (x : RegIndex) (b : Byte) (c : Bool) : (s.setResult x b c).faultPc = s.faultPc := rfl
@[simp] theorem State.setResult_faultOpcode (x : RegIndex) (b : Byte) (c : Bool) : (s.setResult x b c).faultOpcode = s.faultOpcode := rfl
@[simp] theorem State.setResult_faultSp (x : RegIndex) (b : Byte) (c : Bool) : (s.setResult x b c).faultSp = s.faultSp := rfl
@[simp] theorem State.setResult_rndIn (x : RegIndex) (b : Byte) (c : Bool) : (s.setResult x b c).rndIn = s.rndIn := rfl
@[simp] theorem State.setResult_stepIndex (x : RegIndex) (b : Byte) (c : Bool) : (s.setResult x b c).stepIndex = s.stepIndex := rfl

/-! #### load -/
@[simp] theorem State.load_v (bs : List Byte) : (s.load bs).v = s.v := rfl
@[simp] theorem State.load_i (bs : List Byte) : (s.load bs).i = s.i := rfl
@[simp] theorem State.load_pc (bs : List Byte) : (s.load bs).pc = s.pc := rfl
@[simp] theorem State.load_stack (bs : List Byte) : (s.load bs).stack = s.stack := rfl
@[simp] theorem State.load_sp (bs : List Byte) : (s.load bs).sp = s.sp := rfl
@[simp] theorem State.load_dt (bs : List Byte) : (s.load bs).dt = s.dt := rfl
@[simp] theorem State.load_st (bs : List Byte) : (s.load bs).st = s.st := rfl
@[simp] theorem State.load_mem (bs : List Byte) : (s.load bs).mem = s.mem.store 0x200 (bs.take 3584) := rfl
@[simp] theorem State.load_fb (bs : List Byte) : (s.load bs).fb = s.fb := rfl
@[simp] theorem State.load_dirty (bs : List Byte) : (s.load bs).dirty = s.dirty := rfl
@[simp] theorem State.load_keys (bs : List Byte) : (s.load bs).keys = s.keys := rfl
@[simp] theorem State.load_waiting (bs : List Byte) : (s.load bs).waiting = s.waiting := rfl
@[simp] theorem State.load_keyReg (bs : List Byte) : (s.load bs).keyReg = s.keyReg := rfl
@[simp] theorem State.load_halted (bs : List Byte) : (s.load bs).halted = s.halted := rfl
@[simp] theorem State.load_faultCause (bs : List Byte) : (s.load bs).faultCause = s.faultCause := rfl
@[simp] theorem State.load_faultPc (bs : List Byte) : (s.load bs).faultPc = s.faultPc := rfl
@[simp] theorem State.load_faultOpcode (bs : List Byte) : (s.load bs).faultOpcode = s.faultOpcode := rfl
@[simp] theorem State.load_faultSp (bs : List Byte) : (s.load bs).faultSp = s.faultSp := rfl
@[simp] theorem State.load_rndIn (bs : List Byte) : (s.load bs).rndIn = s.rndIn := rfl
@[simp] theorem State.load_stepIndex (bs : List Byte) : (s.load bs).stepIndex = s.stepIndex := rfl
@[simp] theorem State.load_reg (bs : List Byte) (r : RegIndex) : (s.load bs).reg r = s.reg r := rfl

/-! #### ackDirty -/
@[simp] theorem State.ackDirty_v : s.ackDirty.v = s.v := rfl
@[simp] theorem State.ackDirty_i : s.ackDirty.i = s.i := rfl
@[simp] theorem State.ackDirty_pc : s.ackDirty.pc = s.pc := rfl
@[simp] theorem State.ackDirty_stack : s.ackDirty.stack = s.stack := rfl
@[simp] theorem State.ackDirty_sp : s.ackDirty.sp = s.sp := rfl
@[simp] theorem State.ackDirty_dt : s.ackDirty.dt = s.dt := rfl
@[simp] theorem State.ackDirty_st : s.ackDirty.st = s.st := rfl
@[simp] theorem State.ackDirty_mem : s.ackDirty.mem = s.mem := rfl
@[simp] theorem State.ackDirty_fb : s.ackDirty.fb = s.fb := rfl
@[simp] theorem State.ackDirty_dirty : s.ackDirty.dirty = false := rfl
@[simp] theorem State.ackDirty_keys : s.ackDirty.keys = s.keys := rfl
@[simp] theorem State.ackDirty_waiting : s.ackDirty.waiting = s.waiting := rfl
@[simp] theorem State.ackDirty_keyReg : s.ackDirty.keyReg = s.keyReg := rfl
@[simp] theorem State.ackDirty_halted : s.ackDirty.halted = s.halted := rfl
@[simp] theorem State.ackDirty_faultCause : s.ackDirty.faultCause = s.faultCause := rfl
@[simp] theorem State.ackDirty_faultPc : s.ackDirty.faultPc = s.faultPc := rfl
@[simp] theorem State.ackDirty_faultOpcode : s.ackDirty.faultOpcode = s.faultOpcode := rfl
@[simp] theorem State.ackDirty_faultSp : s.ackDirty.faultSp = s.faultSp := rfl
@[simp] theorem State.ackDirty_rndIn : s.ackDirty.rndIn = s.rndIn := rfl
@[simp] theorem State.ackDirty_stepIndex : s.ackDirty.stepIndex = s.stepIndex := rfl
@[simp] theorem State.ackDirty_reg (r : RegIndex) : s.ackDirty.reg r = s.reg r := rfl

/-- The registers FX65 loads, and those it keeps. -/
@[simp] theorem State.loadedRegs_get (x r : RegIndex) :
    (s.loadedRegs x)[r.val] = if r ≤ x then s.mem.read (s.ea r.val) else s.reg r := by
  simp [State.loadedRegs]

end Sys2Proof.Machine
end

