-- ==== Sys2Proof/Laws/Display.lean ====
section
/-! SUPPORT. What a draw does, pixel by pixel: the closed form of the loops of spec/44_display.md R181. -/

namespace Sys2Proof.Machine

/-- A pixel reads what was written to it; every other pixel is unchanged. -/
theorem pixelAt_setPixel (fb : Framebuffer) (r c : Nat) (p : Bool) (r' c' : Nat) :
    pixelAt (setPixel fb r c p) r' c' =
      if r % 32 = r' % 32 ∧ c % 64 = c' % 64 then p else pixelAt fb r' c' := by
  unfold pixelAt setPixel
  by_cases hr : r % 32 = r' % 32
  · by_cases hc : c % 64 = c' % 64
    · simp [hr, hc]
    · simp [hr, hc]
  · simp [hr]

/-- Coordinates count modulo the screen. -/
theorem pixelAt_congr (fb : Framebuffer) {r c r' c' : Nat} (hr : r % 32 = r' % 32) (hc : c % 64 = c' % 64) :
    pixelAt fb r c = pixelAt fb r' c' := by
  simp [pixelAt, hr, hc]

/-- Two framebuffers that agree at every pixel are equal. -/
theorem framebuffer_ext {f g : Framebuffer} (h : ∀ r c, pixelAt f r c = pixelAt g r c) : f = g := by
  apply Vector.ext
  intro r hr
  apply Vector.ext
  intro c hc
  simpa [pixelAt, Nat.mod_eq_of_lt hr, Nat.mod_eq_of_lt hc] using h r c

@[simp] theorem pixelAt_blankScreen (r c : Nat) : pixelAt blankScreen r c = false := by
  simp [pixelAt, blankScreen]

/-- How far column `c` lies to the right of column `x0`, around the screen. -/
def columnOffset (x0 c : Nat) : Nat := (c % 64 + 64 - x0 % 64) % 64

/-- How far row `r` lies below row `y0`, around the screen. -/
def rowOffset (y0 r : Nat) : Nat := (r % 32 + 32 - y0 % 32) % 32

theorem columnOffset_eq_iff (x0 c k : Nat) (hk : k < 64) : columnOffset x0 c = k ↔ (x0 + k) % 64 = c % 64 := by
  unfold columnOffset; omega

theorem rowOffset_eq_iff (y0 r k : Nat) (hk : k < 32) : rowOffset y0 r = k ↔ (y0 + k) % 32 = r % 32 := by
  unfold rowOffset; omega

theorem Drawing.plot_pixel (d : Drawing) (r c : Nat) (b : Bool) (r' c' : Nat) :
    pixelAt (d.plot r c b).fb r' c' =
      xor (pixelAt d.fb r' c') (b && decide (r % 32 = r' % 32 ∧ c % 64 = c' % 64)) := by
  simp only [Drawing.plot, pixelAt_setPixel]
  by_cases h : r % 32 = r' % 32 ∧ c % 64 = c' % 64
  · simp [h, pixelAt_congr d.fb h.1 h.2]
  · simp [h]

theorem Drawing.plot_collision (d : Drawing) (r c : Nat) (b : Bool) :
    (d.plot r c b).collision = (d.collision || (b && pixelAt d.fb r c)) := rfl

/-- The first `n` columns of a sprite row: each pixel is toggled by its own bit, and the collision is met by the pixels as
they were before. -/
theorem Drawing.columns_spec (d : Drawing) (row x0 : Nat) (b : Byte) (n : Nat) (hn : n ≤ 64) :
    (∀ r c, pixelAt ((List.range n).foldl (fun d c => d.plot row (x0 + c) (spriteBit b c)) d).fb r c =
      xor (pixelAt d.fb r c)
        (decide (row % 32 = r % 32) && decide (columnOffset x0 c < n) && spriteBit b (columnOffset x0 c))) ∧
    (((List.range n).foldl (fun d c => d.plot row (x0 + c) (spriteBit b c)) d).collision = true ↔
      d.collision = true ∨ ∃ k < n, spriteBit b k = true ∧ pixelAt d.fb row (x0 + k) = true) := by
  induction n with
  | zero => simp
  | succ n ih =>
    obtain ⟨ihp, ihc⟩ := ih (by omega)
    rw [List.range_succ, List.foldl_append]
    simp only [List.foldl_cons, List.foldl_nil]
    have hself : columnOffset x0 (x0 + n) = n := by unfold columnOffset; omega
    constructor
    · intro r c
      rw [Drawing.plot_pixel, ihp]
      by_cases hr : row % 32 = r % 32
      · have hiff := columnOffset_eq_iff x0 c n (by omega)
        by_cases hc : columnOffset x0 c = n
        · simp [hr, hc, hiff.mp hc]
        · have h1 : ¬ (x0 + n) % 64 = c % 64 := fun e => hc (hiff.mpr e)
          have h2 : (columnOffset x0 c < n + 1) ↔ (columnOffset x0 c < n) := by omega
          simp [hr, h1, h2]
      · simp [hr]
    · rw [Drawing.plot_collision, Bool.or_eq_true, Bool.and_eq_true, ihc, ihp, hself]
      simp only [lt_irrefl, decide_false, Bool.and_false, Bool.false_and, Bool.xor_false]
      constructor
      · rintro ((h | ⟨k, hk, h⟩) | h)
        · exact .inl h
        · exact .inr ⟨k, by omega, h⟩
        · exact .inr ⟨n, by omega, h⟩
      · rintro (h | ⟨k, hk, h⟩)
        · exact .inl (.inl h)
        · by_cases hkn : k = n
          · subst hkn; exact .inr h
          · exact .inl (.inr ⟨k, by omega, h⟩)

/-- One sprite row: the pixel at `(r, c)` is toggled exactly by the bit that lands on it. -/
theorem Drawing.row_pixel (d : Drawing) (row x0 : Nat) (b : Byte) (r c : Nat) :
    pixelAt (d.row row x0 b).fb r c =
      xor (pixelAt d.fb r c)
        (decide (row % 32 = r % 32) && decide (columnOffset x0 c < 8) && spriteBit b (columnOffset x0 c)) :=
  (Drawing.columns_spec d row x0 b 8 (by decide)).1 r c

theorem Drawing.row_collision (d : Drawing) (row x0 : Nat) (b : Byte) :
    (d.row row x0 b).collision = true ↔
      d.collision = true ∨ ∃ k < 8, spriteBit b k = true ∧ pixelAt d.fb row (x0 + k) = true :=
  (Drawing.columns_spec d row x0 b 8 (by decide)).2

/-- A whole sprite of at most 32 rows, pixel by pixel. -/
theorem Drawing.rows_pixel (d : Drawing) (row x0 : Nat) (bs : List Byte) (h : bs.length ≤ 32) (r c : Nat) :
    pixelAt (d.rows row x0 bs).fb r c =
      xor (pixelAt d.fb r c)
        (decide (columnOffset x0 c < 8) &&
          (bs[rowOffset row r]?.map (fun b => spriteBit b (columnOffset x0 c))).getD false) := by
  induction bs generalizing d row with
  | nil => simp [Drawing.rows]
  | cons b bs ih =>
    simp only [List.length_cons] at h
    rw [Drawing.rows, ih _ _ (by omega), Drawing.row_pixel]
    by_cases hr : rowOffset row r = 0
    · have h1 : row % 32 = r % 32 := by simpa using (rowOffset_eq_iff row r 0 (by omega)).mp hr
      have h2 : bs.length ≤ rowOffset (row + 1) r := by
        have : rowOffset (row + 1) r = 31 := by unfold rowOffset at *; omega
        omega
      simp [h1, hr, List.getElem?_eq_none h2]
    · have h1 : ¬ row % 32 = r % 32 := fun e => hr ((rowOffset_eq_iff row r 0 (by omega)).mpr (by simpa using e))
      have h2 : rowOffset row r = rowOffset (row + 1) r + 1 := by unfold rowOffset at *; omega
      simp [h1, h2]

/-- The collision of a whole sprite is met by the pixels as they were before the draw: no pixel is touched twice. -/
theorem Drawing.rows_collision (d : Drawing) (row x0 : Nat) (bs : List Byte) (h : bs.length ≤ 32) :
    (d.rows row x0 bs).collision = true ↔
      d.collision = true ∨ ∃ j b, bs[j]? = some b ∧ ∃ k < 8, spriteBit b k = true ∧
        pixelAt d.fb (row + j) (x0 + k) = true := by
  induction bs generalizing d row with
  | nil => simp [Drawing.rows]
  | cons b bs ih =>
    simp only [List.length_cons] at h
    rw [Drawing.rows, ih _ _ (by omega), Drawing.row_collision]
    have hpix (j : Nat) (hj : j < bs.length) (k : Nat) :
        pixelAt (d.row row x0 b).fb (row + 1 + j) (x0 + k) = pixelAt d.fb (row + (j + 1)) (x0 + k) := by
      have h1 : ¬ row % 32 = (row + (j + 1)) % 32 := by omega
      rw [Drawing.row_pixel, show row + 1 + j = row + (j + 1) by omega]
      simp [h1]
    constructor
    · rintro ((h0 | ⟨k, hk, hb, hp⟩) | ⟨j, b', hj, k, hk, hb, hp⟩)
      · exact .inl h0
      · exact .inr ⟨0, b, rfl, k, hk, hb, by simpa using hp⟩
      · have hlt : j < bs.length := by
          by_contra hge
          rw [List.getElem?_eq_none (by omega)] at hj
          cases hj
        exact .inr ⟨j + 1, b', by simpa using hj, k, hk, hb, by rw [← hpix j hlt]; exact hp⟩
    · rintro (h0 | ⟨j, b', hj, k, hk, hb, hp⟩)
      · exact .inl (.inl h0)
      · cases j with
        | zero =>
          have : b = b' := by simpa using hj
          subst this
          exact .inl (.inr ⟨k, hk, hb, by simpa using hp⟩)
        | succ j =>
          have hj' : bs[j]? = some b' := by simpa using hj
          have hlt : j < bs.length := by
            by_contra hge
            rw [List.getElem?_eq_none (by omega)] at hj'
            cases hj'
          exact .inr ⟨j, b', hj', k, hk, hb, by rw [hpix j hlt]; exact hp⟩

/-- The draw of DXYN at one pixel (spec/44_display.md R181, R182). -/
theorem State.draw_pixel (s : State) (x y : RegIndex) (n : Fin 16) (r c : Nat) :
    pixelAt (s.draw x y n).fb r c =
      xor (pixelAt s.fb r c)
        (decide (rowOffset (s.reg y).toNat r < n.val) && decide (columnOffset (s.reg x).toNat c < 8) &&
          spriteBit (s.mem.read (s.ea (rowOffset (s.reg y).toNat r))) (columnOffset (s.reg x).toNat c)) := by
  have hl : (s.sprite n).length ≤ 32 := by
    rw [State.sprite, Memory.load_length]; omega
  rw [State.draw, Drawing.rows_pixel _ _ _ _ hl]
  simp only [State.sprite, Memory.load_get, State.ea, Nat.add_zero]
  by_cases h : rowOffset (s.reg y).toNat r < n.val <;> simp [h]

/-- The collision of DXYN: some set bit of the sprite lands on a set pixel. -/
theorem State.draw_collision (s : State) (x y : RegIndex) (n : Fin 16) :
    (s.draw x y n).collision = true ↔
      ∃ j < n.val, ∃ k < 8, spriteBit (s.mem.read (s.ea j)) k = true ∧
        pixelAt s.fb ((s.reg y).toNat + j) ((s.reg x).toNat + k) = true := by
  have hl : (s.sprite n).length ≤ 32 := by
    rw [State.sprite, Memory.load_length]; omega
  rw [State.draw, Drawing.rows_collision _ _ _ _ hl]
  simp only [State.sprite, Memory.load_get, State.ea, Nat.add_zero, Bool.false_eq_true, false_or]
  constructor
  · rintro ⟨j, b, hj, k, hk, hb, hp⟩
    split at hj
    · next hlt => cases hj; exact ⟨j, hlt, k, hk, hb, hp⟩
    · cases hj
  · rintro ⟨j, hj, k, hk, hb, hp⟩
    exact ⟨j, _, if_pos hj, k, hk, hb, hp⟩

end Sys2Proof.Machine
end

