-- ==== Sys2Proof/Laws/Ops.lean ====
section
/-! SUPPORT. One lemma for each shared operation, saying everything it can do. -/

namespace Sys2Proof.Machine

/-! ### Faults -/

/-- An instruction with a check either completes with its effect or enters its fault; it never stops otherwise. -/
theorem finish_cases (c : Option Fault) (i : Instr) (s t u : State) (h : finish c i s t = .next u) :
    (c = none ∧ u = t) ∨ ∃ f, c = some f ∧ u = s.raise f (encode i) := by
  cases c <;> simp_all [finish]

@[simp] theorem finish_none (i : Instr) (s t : State) : finish none i s t = .next t := rfl
@[simp] theorem finish_some (f : Fault) (i : Instr) (s t : State) :
    finish (some f) i s t = .next (s.raise f (encode i)) := rfl

/-- Reading a block faults exactly when one of its bytes lies above 0xFFF. -/
theorem readFault_eq (a n : Nat) :
    readFault a n = if 0 < n ∧ 0x1000 < a + n then some .addressOutOfRange else none := by
  unfold readFault
  split <;> split <;> first | rfl | omega

theorem readFault_none {a n : Nat} (h : n = 0 ∨ a + n ≤ 0x1000) : readFault a n = none := by
  rw [readFault_eq, if_neg (by omega)]

/-- Writing a block faults when a byte of it lies above 0xFFF, else when one lies below 0x200. -/
theorem writeFault_eq (a n : Nat) :
    writeFault a n =
      if 0 < n ∧ 0x1000 < a + n then some .addressOutOfRange
      else if 0 < n ∧ a < 0x200 then some .fontRegionWrite else none := by
  unfold writeFault
  repeat' split
  all_goals first | rfl | omega

theorem writeFault_none {a n : Nat} (h : 0x200 ≤ a) (h' : a + n ≤ 0x1000) : writeFault a n = none := by
  rw [writeFault_eq, if_neg (by omega), if_neg (by omega)]

/-- The one fault of reading a block, and when. -/
theorem readFault_some {a n : Nat} {f : Fault} (h : readFault a n = some f) :
    f = .addressOutOfRange ∧ 0 < n ∧ 0x1000 < a + n := by
  rw [readFault_eq] at h
  split at h
  · next c => cases h; exact ⟨rfl, c⟩
  · cases h

/-- The two faults of writing a block, and when. -/
theorem writeFault_some {a n : Nat} {f : Fault} (h : writeFault a n = some f) :
    (f = .addressOutOfRange ∧ 0x1000 < a + n) ∨ (f = .fontRegionWrite ∧ a < 0x200) := by
  rw [writeFault_eq] at h
  split at h
  · next c => cases h; exact .inl ⟨rfl, c.2⟩
  · split at h
    · next c => cases h; exact .inr ⟨rfl, c.2⟩
    · cases h

/-- A block whose write raises no fault lies in the writable range. -/
theorem writeFault_inRam {a n : Nat} (hn : 0 < n) (h : writeFault a n = none) : 0x200 ≤ a ∧ a + n ≤ 0x1000 := by
  rw [writeFault_eq] at h
  split at h
  · cases h
  · split at h
    · cases h
    · omega

/-! ### Counters and addresses -/

theorem countDown_toNat (t : Byte) : (countDown t).toNat = t.toNat - 1 := by
  unfold countDown
  split
  · next h => subst h; rfl
  · next h =>
    have h0 : t.toNat ≠ 0 := fun e => h (BitVec.eq_of_toNat_eq (by simpa using e))
    have := t.isLt
    have h1 : (1 : Byte).toNat = 1 := rfl
    rw [BitVec.toNat_sub, h1]
    omega

theorem zext16_toNat {n : Nat} (b : BitVec n) (h : n ≤ 16) : (zext16 b).toNat = b.toNat := by
  have : b.toNat < 2 ^ 16 := Nat.lt_of_lt_of_le b.isLt (Nat.pow_le_pow_right (by decide) h)
  simp only [zext16, BitVec.toNat_setWidth]
  exact Nat.mod_eq_of_lt this

/-! ### Arithmetic and flags (spec/42_load_alu.md R162) -/

theorem flagByte_toNat (c : Bool) : (flagByte c).toNat = if c then 1 else 0 := by cases c <;> rfl

theorem addByte_toNat (a b : Byte) : (addByte a b).toNat = (a.toNat + b.toNat) % 256 := by simp [addByte]

theorem subByte_toNat (a b : Byte) :
    (subByte a b).toNat = if b.toNat ≤ a.toNat then a.toNat - b.toNat else 256 + a.toNat - b.toNat := by
  have ha := a.isLt
  have hb := b.isLt
  simp only [subByte, BitVec.toNat_ofNat]
  split <;> omega

theorem shrByte_toNat (a : Byte) : (shrByte a).toNat = a.toNat / 2 := by
  have ha := a.isLt
  simp only [shrByte, BitVec.toNat_ofNat]
  omega

theorem shlByte_toNat (a : Byte) : (shlByte a).toNat = 2 * a.toNat % 256 := by simp [shlByte]

theorem shrFlag_eq (a : Byte) : shrFlag a = decide (a.toNat % 2 = 1) := by
  simp [shrFlag, BitVec.getLsbD, Nat.testBit_zero]

theorem shlFlag_eq (a : Byte) : shlFlag a = decide (128 ≤ a.toNat) := by
  have ha := a.isLt
  have h : a.toNat / 128 = 0 ∨ a.toNat / 128 = 1 := by omega
  simp only [shlFlag, BitVec.getLsbD, Nat.testBit_eq_decide_div_mod_eq]
  simp only [decide_eq_decide]
  omega

/-! ### Blocks -/

theorem State.regBlock_length (s : State) (x : RegIndex) : (s.regBlock x).length = x.val + 1 := by
  simp [State.regBlock]

theorem State.regBlock_get (s : State) (x r : RegIndex) (h : r ≤ x) : (s.regBlock x)[r.val]? = some (s.reg r) := by
  have hr : r.val < x.val + 1 := Nat.lt_succ_of_le h
  simp [State.regBlock, State.reg, hr]

/-! ### Fetch -/

/-- A fetch within memory is the big-endian word at `pc` (spec/40_cycle.md R124). -/
theorem State.fetch_ok (s : State) (h : s.pc.toNat ≤ 0xFFE) :
    s.fetch = .ok (bigEndian (s.mem.read s.pc.toNat) (s.mem.read (s.pc.toNat + 1))) := by
  rw [State.fetch, readFault_none (by omega)]

/-- A fetch above 0xFFE is out of range. -/
theorem State.fetch_error (s : State) (h : 0xFFE < s.pc.toNat) : s.fetch = .error .addressOutOfRange := by
  rw [State.fetch, readFault_eq, if_pos (by omega)]

/-! ### The step's own cases -/

theorem cycle_halted (inp : HostInput) (s : State) (h : s.halted = true) : cycle inp s = .next s := by
  simp [cycle, h]

theorem cycle_waiting (inp : HostInput) (s : State) (h : s.halted = false) (hw : s.waiting = true) :
    cycle inp s = .next ((s.latch inp).tickIf Config.timersRunWhileWaiting).waitResolve := by
  simp [cycle, h, hw]

theorem cycle_running (inp : HostInput) (s : State) (h : s.halted = false) (hw : s.waiting = false) :
    cycle inp s = fetchExecute (s.latch inp).tick := by
  simp [cycle, h, hw]

/-- What fetching and executing can do: a fetch fault, a decode failure, or the decoded instruction. -/
theorem fetchExecute_cases (s : State) :
    (0xFFE < s.pc.toNat ∧ fetchExecute s = .next (s.raise .addressOutOfRange 0)) ∨
    (∃ op, s.fetch = .ok op ∧ s.pc.toNat ≤ 0xFFE ∧
      ((∃ r, decode op = .error r ∧ fetchExecute s = .next (s.raise .decodeFailure op)) ∨
       (∃ i, decode op = .ok i ∧ fetchExecute s = exec i s))) := by
  by_cases h : s.pc.toNat ≤ 0xFFE
  · right
    refine ⟨_, s.fetch_ok h, h, ?_⟩
    cases hd : decode (bigEndian (s.mem.read s.pc.toNat) (s.mem.read (s.pc.toNat + 1))) with
    | error r => left; exact ⟨r, rfl, by simp [fetchExecute, s.fetch_ok h, hd]⟩
    | ok i => right; exact ⟨i, rfl, by simp [fetchExecute, s.fetch_ok h, hd]⟩
  · left
    exact ⟨by omega, by simp [fetchExecute, s.fetch_error (by omega)]⟩

/-! ### The keypad scan (spec/46_keypad.md R202) -/

/-- The scan finds the lowest pressed key. -/
theorem lowestKey_some {keys : BitVec 16} {k : RegIndex} (h : lowestKey keys = some k) :
    keys.getLsbD k.val = true ∧ ∀ j < k, keys.getLsbD j.val = false := by
  rw [lowestKey, List.find?_eq_some_iff_getElem] at h
  obtain ⟨hk, n, hn, e, hlt⟩ := h
  have hn' : n = k.val := by rw [← e]; simp
  subst hn'
  refine ⟨hk, fun j hj => ?_⟩
  have := hlt j.val hj
  simpa using this

/-- A pressed key with none pressed below it is the one found. -/
theorem lowestKey_of_lowest {keys : BitVec 16} {k : RegIndex} (h : keys.getLsbD k.val = true)
    (hl : ∀ j, j < k → keys.getLsbD j.val = false) : lowestKey keys = some k := by
  cases e : lowestKey keys with
  | none =>
    rw [lowestKey, List.find?_eq_none] at e
    exact absurd h (e k (List.mem_finRange k))
  | some m =>
    obtain ⟨h1, h2⟩ := lowestKey_some e
    rcases lt_trichotomy m k with hlt | rfl | hgt
    · rw [hl m hlt] at h1; cases h1
    · rfl
    · rw [h2 k hgt] at h; cases h

/-- The scan finds nothing exactly when no key is pressed. -/
theorem lowestKey_none {keys : BitVec 16} : lowestKey keys = none ↔ keys = 0 := by
  rw [lowestKey, List.find?_eq_none]
  constructor
  · intro h
    apply BitVec.eq_of_getLsbD_eq
    intro j hj
    simpa using h ⟨j, hj⟩ (List.mem_finRange _)
  · rintro rfl; simp

end Sys2Proof.Machine
end

