-- ==== Sys2Proof/Laws/Exec.lean ====
section
/-! SUPPORT. What each instruction that can fault answers, by the condition its rule checks, and the frames of the state
updates: what a proof about `exec` cites instead of unfolding the checks. -/

namespace Sys2Proof.Machine

/-! ### The instructions that can fault -/

theorem exec_ret_of_pos (s : State) (h : 0 < s.sp.val) : exec .ret s = .next (s.drop.setPc s.top) := by
  show finish _ _ _ _ = _
  rw [if_neg (by omega)]; rfl

theorem exec_ret_of_empty (s : State) (h : s.sp.val = 0) : exec .ret s = .next (s.raise .stackUnderflow 0x00EE) := by
  show finish _ _ _ _ = _
  rw [if_pos h]; rfl

theorem exec_call_of_room (nnn : Address) (s : State) (h : s.sp.val < 16) :
    exec (.call nnn) s = .next ((s.push (s.pc + 2)).setPc (zext16 nnn)) := by
  show finish _ _ _ _ = _
  rw [if_neg (by omega)]; rfl

theorem exec_call_of_full (nnn : Address) (s : State) (h : s.sp.val = 16) :
    exec (.call nnn) s = .next (s.raise .stackOverflow (encode (.call nnn))) := by
  show finish _ _ _ _ = _
  rw [if_pos h]; rfl

theorem exec_bcd_of_inRam (x : RegIndex) (s : State) (h : 0x200 ≤ s.ea 0) (h' : s.ea 0 + 3 ≤ 0x1000) :
    exec (.bcd x) s = .next (s.storeBytes (s.ea 0) (bcdDigits (s.reg x))).advance := by
  show finish _ _ _ _ = _
  rw [writeFault_none h h']; rfl

theorem exec_storeRegs_of_inRam (x : RegIndex) (s : State) (h : 0x200 ≤ s.ea 0) (h' : s.ea 0 + (x.val + 1) ≤ 0x1000) :
    exec (.storeRegs x) s = .next (s.storeBytes (s.ea 0) (s.regBlock x)).advance := by
  show finish _ _ _ _ = _
  rw [writeFault_none h h']; rfl

theorem exec_loadRegs_of_inRange (x : RegIndex) (s : State) (h : s.ea 0 + (x.val + 1) ≤ 0x1000) :
    exec (.loadRegs x) s = .next (s.setVs (s.loadedRegs x)).advance := by
  show finish _ _ _ _ = _
  rw [readFault_none (.inr h)]; rfl

theorem exec_drw_of_inRange (x y : RegIndex) (n : Fin 16) (s : State) (h : n.val = 0 ∨ s.ea 0 + n.val ≤ 0x1000) :
    exec (.drw x y n) s =
      .next ((s.show (s.draw x y n).fb).setV vf (flagByte (s.draw x y n).collision)).advance := by
  show finish _ _ _ _ = _
  rw [readFault_none h]; rfl

/-- A store instruction with a failed check: which fault, and nothing but its entry. -/
theorem exec_bcd_of_fault (x : RegIndex) (s : State) (f : Fault) (h : writeFault (s.ea 0) 3 = some f) :
    exec (.bcd x) s = .next (s.raise f (encode (.bcd x))) := by
  show finish _ _ _ _ = _
  rw [h]; rfl

theorem exec_storeRegs_of_fault (x : RegIndex) (s : State) (f : Fault)
    (h : writeFault (s.ea 0) (x.val + 1) = some f) :
    exec (.storeRegs x) s = .next (s.raise f (encode (.storeRegs x))) := by
  show finish _ _ _ _ = _
  rw [h]; rfl

theorem exec_loadRegs_of_fault (x : RegIndex) (s : State) (f : Fault) (h : readFault (s.ea 0) (x.val + 1) = some f) :
    exec (.loadRegs x) s = .next (s.raise f (encode (.loadRegs x))) := by
  show finish _ _ _ _ = _
  rw [h]; rfl

theorem exec_drw_of_fault (x y : RegIndex) (n : Fin 16) (s : State) (f : Fault)
    (h : readFault (s.ea 0) n.val = some f) :
    exec (.drw x y n) s = .next (s.raise f (encode (.drw x y n))) := by
  show finish _ _ _ _ = _
  rw [h]; rfl

/-! ### Frames -/

/-- Frames compose. -/
theorem KeepsAllBut.trans {ps : List Part} {s t u : State} (h : KeepsAllBut ps s t) (h' : KeepsAllBut ps t u) :
    KeepsAllBut ps s u := by
  intro p hp
  have a := h p hp
  have b := h' p hp
  cases p <;> simp only [Agree] at a b ⊢
  case v => exact fun r => (b r).trans (a r)
  case mem => exact fun c => (b c).trans (a c)
  all_goals exact b.trans a

/-- A frame may list more parts than were written. -/
theorem KeepsAllBut.mono {ps qs : List Part} {s t : State} (h : KeepsAllBut ps s t) (hpq : ∀ p ∈ ps, p ∈ qs) :
    KeepsAllBut qs s t :=
  fun p hp => h p (fun hm => hp (hpq p hm))

/-- Fault entry writes the diagnostics and nothing else (spec/60_exceptions.md R224). -/
theorem State.raise_faulted (s : State) (f : Fault) (op : Word) : Faulted f op s (s.raise f op) := by
  refine ⟨rfl, rfl, rfl, rfl, rfl, ?_⟩
  intro p hp
  cases p <;> first | (exact absurd hp (by decide)) | rfl | (intro _; rfl)

/-- The state an instruction finds differs from the state before the step in the host's inputs and the timers only. -/
theorem State.ready_keeps (s : State) (inp : HostInput) :
    KeepsAllBut [.keys, .rndIn, .dt, .st, .dirty, .stepIndex] s (s.ready inp) := by
  intro p hp
  cases p <;> first | (exact absurd hp (by decide)) | rfl | (intro _; rfl)

/-- A running step fetches and executes in the ready state. -/
theorem hostStep_running (inp : HostInput) (s : State) (h : s.running) :
    hostStep inp s = fetchExecute (s.ready inp) :=
  cycle_running inp _ h.1 h.2

theorem hostStep_halted (inp : HostInput) (s : State) (h : s.halted = true) :
    hostStep inp s = .next (s.between inp.ack) :=
  cycle_halted inp _ h

theorem hostStep_waiting (inp : HostInput) (s : State) (h : s.halted = false) (hw : s.waiting = true) :
    hostStep inp s =
      .next (((s.between inp.ack).latch inp).tickIf Config.timersRunWhileWaiting).waitResolve :=
  cycle_waiting inp _ h hw

/-- A running step within memory decodes the word at `pc`. -/
theorem fetchExecute_inRange (s : State) (h : s.pc.toNat ≤ 0xFFE) :
    fetchExecute s =
      match decode s.wordAtPc with
      | .error _ => .next (s.raise .decodeFailure s.wordAtPc)
      | .ok i => exec i s := by
  rw [fetchExecute, s.fetch_ok h]; rfl

theorem fetchExecute_outOfRange (s : State) (h : 0xFFE < s.pc.toNat) :
    fetchExecute s = .next (s.raise .addressOutOfRange 0) := by
  rw [fetchExecute, s.fetch_error h]

@[simp] theorem State.ready_wordAtPc (s : State) (inp : HostInput) : (s.ready inp).wordAtPc = s.wordAtPc := rfl
@[simp] theorem State.ready_reg (s : State) (inp : HostInput) (r : RegIndex) : (s.ready inp).reg r = s.reg r := rfl

/-- A running step whose word decodes to `i` is `exec i` in the ready state. -/
theorem hostStep_decoded (inp : HostInput) (s : State) (i : Instr) (h : s.running) (hp : s.pc.toNat ≤ 0xFFE)
    (hd : decode s.wordAtPc = .ok i) : hostStep inp s = exec i (s.ready inp) := by
  rw [hostStep_running inp s h, fetchExecute_inRange (s.ready inp) hp, State.ready_wordAtPc, hd]

end Sys2Proof.Machine
end

