-- ==== Sys2Proof/Laws/PerInstr.lean ====
section
/-! SUPPORT. The statement made of every instruction: its word is covered by the row of the opcode table that bears its
mnemonic (spec/30_encoding.md R94). -/

namespace Sys2Proof.Laws.EncodesItsRow

/-- The encoder gives the instruction a word that its own row's mask and match accept. -/
def Statement (i : Instr) : Prop := ∃ r ∈ opcodeTable, r.pattern = i.pattern ∧ r.covers (encode i) = true

/-- A word of format A is covered by the row of its leading nibble. -/
theorem covers_formatA (p : String) (t : BitVec 4) (n : Address) (v : Word) (h : formatA t 0 = v) :
    (OpcodeRow.mk p 0xF000 v).covers (formatA t n) = true := by
  have : formatA t n &&& 0xF000#16 = v := by rw [and_F000, fieldT_formatA, ← h]; rfl
  simpa [OpcodeRow.covers] using this

/-- A word of format XI with the mask of its leading nibble. -/
theorem covers_formatXI (p : String) (t : BitVec 4) (x : RegIndex) (nn : Byte) (v : Word) (h : formatA t 0 = v) :
    (OpcodeRow.mk p 0xF000 v).covers (formatXI t x nn) = true := by
  have : formatXI t x nn &&& 0xF000#16 = v := by rw [and_F000, fieldT_formatXI, ← h]; rfl
  simpa [OpcodeRow.covers] using this

/-- A word of format Xf with the mask of its leading nibble and low byte. -/
theorem covers_formatXf (p : String) (t : BitVec 4) (x : RegIndex) (f : Byte) (v : Word) (h : formatXI t 0 f = v) :
    (OpcodeRow.mk p 0xF0FF v).covers (formatXI t x f) = true := by
  have : formatXI t x f &&& 0xF0FF#16 = v := by rw [and_F0FF, fieldT_formatXI, fieldNN_formatXI, h]
  simpa [OpcodeRow.covers] using this

/-- A word of format XYf with the mask of its leading and last nibble. -/
theorem covers_formatXYf (p : String) (t : BitVec 4) (x y : RegIndex) (f : BitVec 4) (v : Word)
    (h : formatXYN t 0 0 f = v) : (OpcodeRow.mk p 0xF00F v).covers (formatXYN t x y f) = true := by
  have : formatXYN t x y f &&& 0xF00F#16 = v := by
    rw [and_F00F, fieldT_formatXYN, regNibble_fieldN_formatXYN, h]
  simpa [OpcodeRow.covers] using this

/-- A word of format XYN with the mask of its leading nibble. -/
theorem covers_formatXYN (p : String) (t : BitVec 4) (x y : RegIndex) (n : BitVec 4) (v : Word) (h : formatA t 0 = v) :
    (OpcodeRow.mk p 0xF000 v).covers (formatXYN t x y n) = true := by
  have : formatXYN t x y n &&& 0xF000#16 = v := by rw [and_F000, fieldT_formatXYN, ← h]; rfl
  simpa [OpcodeRow.covers] using this

theorem cls : Statement .cls := ⟨⟨"00E0", 0xFFFF, 0x00E0⟩, by decide, rfl, by decide⟩
theorem ret : Statement .ret := ⟨⟨"00EE", 0xFFFF, 0x00EE⟩, by decide, rfl, by decide⟩
theorem jp (nnn : Address) : Statement (.jp nnn) :=
  ⟨⟨"1NNN", 0xF000, 0x1000⟩, by decide, rfl, covers_formatA _ _ _ _ rfl⟩
theorem call (nnn : Address) : Statement (.call nnn) :=
  ⟨⟨"2NNN", 0xF000, 0x2000⟩, by decide, rfl, covers_formatA _ _ _ _ rfl⟩
theorem seImm (x : RegIndex) (nn : Byte) : Statement (.seImm x nn) :=
  ⟨⟨"3XNN", 0xF000, 0x3000⟩, by decide, rfl, covers_formatXI _ _ _ _ _ rfl⟩
theorem ldImm (x : RegIndex) (nn : Byte) : Statement (.ldImm x nn) :=
  ⟨⟨"6XNN", 0xF000, 0x6000⟩, by decide, rfl, covers_formatXI _ _ _ _ _ rfl⟩
theorem addImm (x : RegIndex) (nn : Byte) : Statement (.addImm x nn) :=
  ⟨⟨"7XNN", 0xF000, 0x7000⟩, by decide, rfl, covers_formatXI _ _ _ _ _ rfl⟩
theorem ldReg (x y : RegIndex) : Statement (.ldReg x y) :=
  ⟨⟨"8XY0", 0xF00F, 0x8000⟩, by decide, rfl, covers_formatXYf _ _ _ _ _ _ rfl⟩
theorem orReg (x y : RegIndex) : Statement (.orReg x y) :=
  ⟨⟨"8XY1", 0xF00F, 0x8001⟩, by decide, rfl, covers_formatXYf _ _ _ _ _ _ rfl⟩
theorem andReg (x y : RegIndex) : Statement (.andReg x y) :=
  ⟨⟨"8XY2", 0xF00F, 0x8002⟩, by decide, rfl, covers_formatXYf _ _ _ _ _ _ rfl⟩
theorem xorReg (x y : RegIndex) : Statement (.xorReg x y) :=
  ⟨⟨"8XY3", 0xF00F, 0x8003⟩, by decide, rfl, covers_formatXYf _ _ _ _ _ _ rfl⟩
theorem addReg (x y : RegIndex) : Statement (.addReg x y) :=
  ⟨⟨"8XY4", 0xF00F, 0x8004⟩, by decide, rfl, covers_formatXYf _ _ _ _ _ _ rfl⟩
theorem subReg (x y : RegIndex) : Statement (.subReg x y) :=
  ⟨⟨"8XY5", 0xF00F, 0x8005⟩, by decide, rfl, covers_formatXYf _ _ _ _ _ _ rfl⟩
theorem shr (x y : RegIndex) : Statement (.shr x y) :=
  ⟨⟨"8XY6", 0xF00F, 0x8006⟩, by decide, rfl, covers_formatXYf _ _ _ _ _ _ rfl⟩
theorem subnReg (x y : RegIndex) : Statement (.subnReg x y) :=
  ⟨⟨"8XY7", 0xF00F, 0x8007⟩, by decide, rfl, covers_formatXYf _ _ _ _ _ _ rfl⟩
theorem shl (x y : RegIndex) : Statement (.shl x y) :=
  ⟨⟨"8XYE", 0xF00F, 0x800E⟩, by decide, rfl, covers_formatXYf _ _ _ _ _ _ rfl⟩
theorem sneReg (x y : RegIndex) : Statement (.sneReg x y) :=
  ⟨⟨"9XY0", 0xF00F, 0x9000⟩, by decide, rfl, covers_formatXYf _ _ _ _ _ _ rfl⟩
theorem ldI (nnn : Address) : Statement (.ldI nnn) :=
  ⟨⟨"ANNN", 0xF000, 0xA000⟩, by decide, rfl, covers_formatA _ _ _ _ rfl⟩
theorem jpV0 (nnn : Address) : Statement (.jpV0 nnn) :=
  ⟨⟨"BNNN", 0xF000, 0xB000⟩, by decide, rfl, covers_formatA _ _ _ _ rfl⟩
theorem rnd (x : RegIndex) (nn : Byte) : Statement (.rnd x nn) :=
  ⟨⟨"CXNN", 0xF000, 0xC000⟩, by decide, rfl, covers_formatXI _ _ _ _ _ rfl⟩
theorem drw (x y : RegIndex) (n : Fin 16) : Statement (.drw x y n) :=
  ⟨⟨"DXYN", 0xF000, 0xD000⟩, by decide, rfl, covers_formatXYN _ _ _ _ _ _ rfl⟩
theorem ldVxDt (x : RegIndex) : Statement (.ldVxDt x) :=
  ⟨⟨"FX07", 0xF0FF, 0xF007⟩, by decide, rfl, covers_formatXf _ _ _ _ _ rfl⟩
theorem ldVxKey (x : RegIndex) : Statement (.ldVxKey x) :=
  ⟨⟨"FX0A", 0xF0FF, 0xF00A⟩, by decide, rfl, covers_formatXf _ _ _ _ _ rfl⟩
theorem ldDtVx (x : RegIndex) : Statement (.ldDtVx x) :=
  ⟨⟨"FX15", 0xF0FF, 0xF015⟩, by decide, rfl, covers_formatXf _ _ _ _ _ rfl⟩
theorem ldStVx (x : RegIndex) : Statement (.ldStVx x) :=
  ⟨⟨"FX18", 0xF0FF, 0xF018⟩, by decide, rfl, covers_formatXf _ _ _ _ _ rfl⟩
theorem addI (x : RegIndex) : Statement (.addI x) :=
  ⟨⟨"FX1E", 0xF0FF, 0xF01E⟩, by decide, rfl, covers_formatXf _ _ _ _ _ rfl⟩
theorem ldFont (x : RegIndex) : Statement (.ldFont x) :=
  ⟨⟨"FX29", 0xF0FF, 0xF029⟩, by decide, rfl, covers_formatXf _ _ _ _ _ rfl⟩
theorem bcd (x : RegIndex) : Statement (.bcd x) :=
  ⟨⟨"FX33", 0xF0FF, 0xF033⟩, by decide, rfl, covers_formatXf _ _ _ _ _ rfl⟩
theorem storeRegs (x : RegIndex) : Statement (.storeRegs x) :=
  ⟨⟨"FX55", 0xF0FF, 0xF055⟩, by decide, rfl, covers_formatXf _ _ _ _ _ rfl⟩
theorem loadRegs (x : RegIndex) : Statement (.loadRegs x) :=
  ⟨⟨"FX65", 0xF0FF, 0xF065⟩, by decide, rfl, covers_formatXf _ _ _ _ _ rfl⟩

end Sys2Proof.Laws.EncodesItsRow
end

