-- ==== Sys2Proof/Laws/Step.lean ====
section
/-! SUPPORT. Everything one step can do, said once: the ways `hostStep` answers, what `exec` can do to memory and to the
diagnostics, and the two ways a wait can go. -/

namespace Sys2Proof.Machine

/-- The five ways a step ends: halted, waiting, a fetch fault, an illegal word, or an instruction. -/
theorem hostStep_cases (inp : HostInput) (s t : State) (h : hostStep inp s = .next t) :
    (s.halted = true ∧ t = s.between inp.ack) ∨
    (s.halted = false ∧ s.waiting = true ∧
      t = (((s.between inp.ack).latch inp).tickIf Config.timersRunWhileWaiting).waitResolve) ∨
    (s.running ∧ 0xFFE < s.pc.toNat ∧ t = (s.ready inp).raise .addressOutOfRange 0) ∨
    (s.running ∧ s.pc.toNat ≤ 0xFFE ∧ (∃ r, decode s.wordAtPc = .error r) ∧
      t = (s.ready inp).raise .decodeFailure s.wordAtPc) ∨
    (s.running ∧ s.pc.toNat ≤ 0xFFE ∧ ∃ i, decode s.wordAtPc = .ok i ∧ exec i (s.ready inp) = .next t) := by
  by_cases hh : s.halted = true
  · rw [hostStep_halted _ _ hh] at h; cases h; exact .inl ⟨hh, rfl⟩
  rw [Bool.not_eq_true] at hh
  by_cases hw : s.waiting = true
  · rw [hostStep_waiting _ _ hh hw] at h; cases h; exact .inr (.inl ⟨hh, hw, rfl⟩)
  rw [Bool.not_eq_true] at hw
  have hr : s.running := ⟨hh, hw⟩
  rw [hostStep_running _ _ hr] at h
  by_cases hp : s.pc.toNat ≤ 0xFFE
  · rw [fetchExecute_inRange (s.ready inp) hp, State.ready_wordAtPc] at h
    cases hd : decode s.wordAtPc with
    | error r => rw [hd] at h; cases h; exact .inr (.inr (.inr (.inl ⟨hr, hp, ⟨r, rfl⟩, rfl⟩)))
    | ok i => rw [hd] at h; exact .inr (.inr (.inr (.inr ⟨hr, hp, i, rfl, h⟩)))
  · rw [fetchExecute_outOfRange (s.ready inp) (Nat.lt_of_not_le hp)] at h
    cases h; exact .inr (.inr (.inl ⟨hr, Nat.lt_of_not_le hp, rfl⟩))

/-- A wait with a key down: the key is written, the wait ends, `pc` advances. -/
theorem State.waitResolve_pressed {s : State} {k : RegIndex} (h : lowestKey s.keys = some k) :
    s.waitResolve = ((s.setV s.keyReg (BitVec.ofNat 8 k.val)).leaveWait).advance := by
  unfold State.waitResolve; rw [h]

/-- A wait with no key down: nothing changes. -/
theorem State.waitResolve_idle {s : State} (h : lowestKey s.keys = none) : s.waitResolve = s := by
  unfold State.waitResolve; rw [h]

/-- The wait resolution never touches memory. -/
theorem State.waitResolve_mem (s : State) : s.waitResolve.mem = s.mem := by
  unfold State.waitResolve; split <;> rfl

/-- What an instruction can do to memory: nothing, or one store of a block in the writable range. -/
theorem exec_mem (i : Instr) (s t : State) (h : exec i s = .next t) :
    t.mem = s.mem ∨
      ∃ bs : List Byte, 0x200 ≤ s.ea 0 ∧ s.ea 0 + bs.length ≤ 0x1000 ∧ t.mem = s.mem.store (s.ea 0) bs := by
  cases i
  case bcd x =>
    cases e : writeFault (s.ea 0) 3 with
    | none =>
      obtain ⟨a, b⟩ := writeFault_inRam (by decide) e
      rw [exec_bcd_of_inRam x s a b] at h; cases h
      exact .inr ⟨bcdDigits (s.reg x), a, b, rfl⟩
    | some f => rw [exec_bcd_of_fault x s f e] at h; cases h; exact .inl rfl
  case storeRegs x =>
    cases e : writeFault (s.ea 0) (x.val + 1) with
    | none =>
      obtain ⟨a, b⟩ := writeFault_inRam (by omega) e
      rw [exec_storeRegs_of_inRam x s a b] at h; cases h
      exact .inr ⟨s.regBlock x, a, by rw [State.regBlock_length]; exact b, rfl⟩
    | some f => rw [exec_storeRegs_of_fault x s f e] at h; cases h; exact .inl rfl
  case ret =>
    by_cases e : s.sp.val = 0
    · rw [exec_ret_of_empty s e] at h; cases h; exact .inl rfl
    · rw [exec_ret_of_pos s (by omega)] at h; cases h; exact .inl rfl
  case call n =>
    by_cases e : s.sp.val = 16
    · rw [exec_call_of_full n s e] at h; cases h; exact .inl rfl
    · rw [exec_call_of_room n s (by omega)] at h; cases h; exact .inl (by simp)
  case drw x y n =>
    cases e : readFault (s.ea 0) n.val with
    | none => simp [exec, execDrw, e] at h; subst h; exact .inl rfl
    | some f => rw [exec_drw_of_fault x y n s f e] at h; cases h; exact .inl rfl
  case loadRegs x =>
    cases e : readFault (s.ea 0) (x.val + 1) with
    | none => simp [exec, execLoadRegs, e] at h; subst h; exact .inl rfl
    | some f => rw [exec_loadRegs_of_fault x s f e] at h; cases h; exact .inl rfl
  all_goals (cases h; exact .inl rfl)

/-- What an instruction can do to the halt latch and the diagnostics: nothing, or one fault entry, and only for a cause whose
condition holds. -/
theorem exec_raise_cases (i : Instr) (s t : State) (h : exec i s = .next t) :
    (t.halted = s.halted ∧ t.faultCause = s.faultCause ∧ t.faultPc = s.faultPc ∧ t.faultOpcode = s.faultOpcode ∧
      t.faultSp = s.faultSp) ∨
    ∃ f, t = s.raise f (encode i) ∧ Raises i s f := by
  cases i
  case ret =>
    rcases finish_cases _ _ _ _ _ h with ⟨_, rfl⟩ | ⟨f, e, rfl⟩
    · exact .inl (by simp)
    · split at e <;> cases e
      next c => exact .inr ⟨.stackUnderflow, rfl, rfl, c⟩
  case call n =>
    rcases finish_cases _ _ _ _ _ h with ⟨_, rfl⟩ | ⟨f, e, rfl⟩
    · exact .inl (by simp)
    · split at e <;> cases e
      next c => exact .inr ⟨.stackOverflow, rfl, ⟨n, rfl⟩, c⟩
  case drw x y n =>
    rcases finish_cases _ _ _ _ _ h with ⟨_, rfl⟩ | ⟨f, e, rfl⟩
    · exact .inl (by simp)
    · obtain ⟨rfl, hn, ha⟩ := readFault_some e
      exact .inr ⟨.addressOutOfRange, rfl, .inl ⟨x, y, n, rfl, hn, by simp only [State.ea] at ha ⊢; omega⟩⟩
  case bcd x =>
    rcases finish_cases _ _ _ _ _ h with ⟨_, rfl⟩ | ⟨f, e, rfl⟩
    · exact .inl (by simp)
    · rcases writeFault_some e with ⟨rfl, ha⟩ | ⟨rfl, ha⟩
      · exact .inr ⟨.addressOutOfRange, rfl, .inr (.inl ⟨x, rfl, by simp only [State.ea] at ha ⊢; omega⟩)⟩
      · exact .inr ⟨.fontRegionWrite, rfl, x, .inl rfl, ha⟩
  case storeRegs x =>
    rcases finish_cases _ _ _ _ _ h with ⟨_, rfl⟩ | ⟨f, e, rfl⟩
    · exact .inl (by simp)
    · rcases writeFault_some e with ⟨rfl, ha⟩ | ⟨rfl, ha⟩
      · exact .inr ⟨.addressOutOfRange, rfl, .inr (.inr ⟨x, .inl rfl, by simp only [State.ea] at ha ⊢; omega⟩)⟩
      · exact .inr ⟨.fontRegionWrite, rfl, x, .inr rfl, ha⟩
  case loadRegs x =>
    rcases finish_cases _ _ _ _ _ h with ⟨_, rfl⟩ | ⟨f, e, rfl⟩
    · exact .inl (by simp)
    · obtain ⟨rfl, _, ha⟩ := readFault_some e
      exact .inr ⟨.addressOutOfRange, rfl, .inr (.inr ⟨x, .inr rfl, by simp only [State.ea] at ha ⊢; omega⟩)⟩
  all_goals (cases h; exact .inl (by simp))

end Sys2Proof.Machine
end

