-- ==== Sys2Proof/Tests/Slice0.lean ====
section
/-! SUPPORT. The model's own tests. Every expected value is a row of spec/95_test_vectors.md (section named in the test's
comment) or a hand calculation from the rule named; the last part shows that the hypotheses of the statements can be met. -/

namespace Sys2Proof.Tests

open Sys2Proof Sys2Proof.Machine

/-! ### Helpers -/

/-- The inputs of the vectors: every key released, `rnd = 0`, no `AckDirty`. -/
def quiet : HostInput := ⟨0, 0, false⟩

/-- The reset state with some registers written. -/
def regs (l : List (RegIndex × Byte)) : State := l.foldl (fun s p => s.setV p.1 p.2) State.reset

/-- One step on the word `op` placed where `s` fetches. -/
def run (inp : HostInput) (op : Word) (s : State) : Host.Outcome State Fault Refusal := hostStep inp (s.placeWord op)

/-- What `f` reads from a next state. -/
def got {α : Type} (f : State → α) : Host.Outcome State Fault Refusal → Option α
  | .next t => some (f t)
  | .fault _ => none
  | .refused _ => none

/-- One pixel lit. -/
def lit (row col : Nat) (s : State) : State := { s with fb := setPixel s.fb row col true }

/-- The pixels of a list of places. -/
def pixels (l : List (Nat × Nat)) (s : State) : List Bool := l.map (fun p => pixelAt s.fb p.1 p.2)

/-- The bytes of memory from an address. -/
def bytes (a n : Nat) (s : State) : List Byte := s.mem.load a n

/-- The diagnostics. -/
def diag (s : State) : Bool × BitVec 3 × Word × Word × Nat :=
  (s.halted, s.faultCause, s.faultPc, s.faultOpcode, s.faultSp.val)

/-- The refusal a word decodes to. -/
def rejection (op : Word) : Option DecodeReject :=
  match decode op with
  | .ok _ => none
  | .error r => some r

/-- The instruction a word decodes to. -/
def instr (op : Word) : Option Instr :=
  match decode op with
  | .ok i => some i
  | .error _ => none

/-! ### Well-formedness: an ill-formed word for each row of 30_encoding.md R97, which the check refuses -/

theorem test_wf_family0 : legalWord 0x01E0 = false ∧ legalWord 0x00E0 = true := by decide
theorem test_wf_family4 : legalWord 0x4105 = false := by decide
theorem test_wf_family5 : legalWord 0x5120 = false := by decide
theorem test_wf_family8 : legalWord 0x8128 = false ∧ legalWord 0x812F = false ∧ legalWord 0x812E = true := by decide
theorem test_wf_family9 : legalWord 0x9AB1 = false ∧ legalWord 0x9AB0 = true := by decide
theorem test_wf_familyE : legalWord 0xE19E = false ∧ legalWord 0xE1A1 = false := by decide
theorem test_wf_familyF : legalWord 0xF100 = false ∧ legalWord 0xF185 = false ∧ legalWord 0xFFFF = false := by decide

/-! ### Decoding: every constructor, from a word written out from its row of 30_encoding.md R94 (95, 2.1 and 2.2) -/

theorem test_decode_family0 : instr 0x00E0 = some .cls ∧ instr 0x00EE = some .ret := by decide
theorem test_decode_jumps : instr 0x1FFE = some (.jp 0xFFE) ∧ instr 0x2345 = some (.call 0x345) ∧
    instr 0xB300 = some (.jpV0 0x300) := by decide
theorem test_decode_immediates : instr 0x3A42 = some (.seImm 10 0x42) ∧ instr 0x6C7F = some (.ldImm 12 0x7F) ∧
    instr 0x73FF = some (.addImm 3 0xFF) ∧ instr 0xC10F = some (.rnd 1 0x0F) := by decide
theorem test_decode_logic : instr 0x8F20 = some (.ldReg 15 2) ∧ instr 0x8121 = some (.orReg 1 2) ∧
    instr 0x8122 = some (.andReg 1 2) ∧ instr 0x8123 = some (.xorReg 1 2) := by decide
theorem test_decode_arithmetic : instr 0x8AB4 = some (.addReg 10 11) ∧ instr 0x8125 = some (.subReg 1 2) ∧
    instr 0x81A6 = some (.shr 1 10) ∧ instr 0x8F17 = some (.subnReg 15 1) ∧ instr 0x8F0E = some (.shl 15 0) := by decide
theorem test_decode_sne_index_draw : instr 0x9AB0 = some (.sneReg 10 11) ∧ instr 0xA123 = some (.ldI 0x123) ∧
    instr 0xD125 = some (.drw 1 2 5) := by decide
theorem test_decode_timers_keys : instr 0xF107 = some (.ldVxDt 1) ∧ instr 0xF30A = some (.ldVxKey 3) ∧
    instr 0xF115 = some (.ldDtVx 1) ∧ instr 0xF118 = some (.ldStVx 1) := by decide
theorem test_decode_index_memory : instr 0xFF1E = some (.addI 15) ∧ instr 0xF129 = some (.ldFont 1) ∧
    instr 0xF933 = some (.bcd 9) ∧ instr 0xF255 = some (.storeRegs 2) ∧ instr 0xF265 = some (.loadRegs 2) := by decide
theorem test_decode_refusals : rejection 0x0000 = some .family0 ∧ rejection 0x4105 = some .family4 ∧
    rejection 0x5120 = some .family5 ∧ rejection 0x8128 = some .family8 ∧ rejection 0x9AB1 = some .family9 ∧
    rejection 0xE1A1 = some .familyE ∧ rejection 0xF175 = some .familyF := by decide
theorem test_decodeBytes_takes_two : decodeBytes [0x12, 0x0C, 0x60] = .ok (.jp 0x20C, [0x60]) ∧
    decodeBytes [0x12] = .error .truncated := ⟨rfl, rfl⟩
theorem test_decodeTableWord : decodeTableWord 16 0x8014 = some (.addReg 0 1) ∧ decodeTableWord 16 0x5120 = none := by
  decide
theorem test_encode_families : encode (.call 0x345) = 0x2345 ∧ encode (.shl 15 0) = 0x8F0E ∧
    encode (.drw 1 2 5) = 0xD125 ∧ encode (.loadRegs 2) = 0xF265 := by decide

/-! ### The step and the word placed for it -/

/-- Two bytes big-endian at `pc`: 6C7F from reset loads VC. -/
theorem test_step_withFetchWord : got (fun t => (t.reg 12, t.pc)) (step (State.reset.withFetchWord 16 0x6C7F)) =
    some (0x7F, 0x202) := by decide
/-- 95, 2.3: the last word of memory, and an odd pc. -/
theorem test_fetch_last_and_odd :
    got (fun t => (t.pc, t.halted)) (run quiet 0x1FFE { State.reset with pc := 0xFFE }) = some (0xFFE, false) ∧
    got (fun t => (t.reg 0, t.pc)) (run quiet 0x602A { State.reset with pc := 0x201 }) = some (0x2A, 0x203) := by decide
/-- 95, 2.3: a fetch across the end of memory, after the tick. -/
theorem test_fetch_above : got (fun t => (diag t, t.dt)) (hostStep quiet { State.reset with pc := 0xFFF, dt := 2 }) =
    some ((true, 4, 0xFFF, 0, 0), 1) := by decide
/-- 95, 2.1: the diagnostics of an illegal word; the tick is not undone. -/
theorem test_decode_failure : got (fun t => (diag t, t.dt)) (run quiet 0xFFFF { State.reset with pc := 0x456, sp := 3, dt := 7 }) =
    some ((true, 1, 0x456, 0xFFFF, 3), 6) := by decide
/-- 95, 2.10: a halted core latches no key and ticks no timer. -/
theorem test_halted : got (fun t => (t.keys, t.st, t.soundOn)) (hostStep ⟨0xFFFF, 0, false⟩ { State.reset with halted := true, st := 5 }) =
    some (0, 5, true) := by decide
/-- 95, 2.11: a load past 0xFFF is cut off; the bytes beyond a short one stay 0. -/
theorem test_load : bytes 0x1FF 4 (State.reset.load [0x12, 0x34]) = [0, 0x12, 0x34, 0] := by decide

/-! ### Control flow (95, 2.4) -/

theorem test_ret : got (fun t => (t.pc, t.sp.val, t.stack[1])) (run quiet 0x00EE { State.reset with
    sp := 2, stack := (State.reset.stack.set 0 0x206).set 1 0xABC }) = some (0xABC, 1, 0xABC) := by decide
theorem test_ret_underflow : got (fun t => (diag t, t.pc)) (run quiet 0x00EE State.reset) =
    some ((true, 3, 0x200, 0x00EE, 0), 0x200) := by decide
theorem test_jp : got (fun t => t.pc) (run quiet 0x1201 State.reset) = some 0x201 := by decide
theorem test_call_last_entry : got (fun t => (t.stack[15], t.sp.val, t.pc))
    (run quiet 0x2345 { State.reset with pc := 0x3FE, sp := 15 }) = some (0x400, 16, 0x345) := by decide
theorem test_call_overflow : got (fun t => (diag t, t.pc, t.sp.val)) (run quiet 0x2345 { State.reset with sp := 16 }) =
    some ((true, 2, 0x200, 0x2345, 16), 0x200, 16) := by decide
theorem test_se_taken : got (fun t => t.pc) (run quiet 0x3A42 (regs [(10, 0x42)])) = some 0x204 := by decide
theorem test_se_not_taken : got (fun t => t.pc) (run quiet 0x3A42 (regs [(10, 0x43)])) = some 0x202 := by decide
theorem test_sne_taken : got (fun t => t.pc) (run quiet 0x9AB0 (regs [(10, 1), (11, 2)])) = some 0x204 := by decide
theorem test_sne_same_register : got (fun t => t.pc) (run quiet 0x9330 (regs [(3, 7)])) = some 0x202 := by decide
theorem test_jpV0_largest : got (fun t => t.pc) (run quiet 0xBFFF (regs [(0, 0xFF)])) = some 0x10FE := by decide

/-! ### Load and arithmetic (95, 2.5) -/

theorem test_ldImm_vf : got (fun t => t.reg 15) (run quiet 0x6FFF State.reset) = some 0xFF := by decide
theorem test_addImm_wraps : got (fun t => (t.reg 3, t.reg 15)) (run quiet 0x7301 (regs [(3, 0xFF), (15, 1)])) =
    some (0, 1) := by decide
theorem test_ldReg : got (fun t => (t.reg 1, t.reg 2)) (run quiet 0x8120 (regs [(1, 1), (2, 0xAB)])) =
    some (0xAB, 0xAB) := by decide
theorem test_or : got (fun t => (t.reg 1, t.reg 15)) (run quiet 0x8121 (regs [(1, 0xF0), (2, 0x0F), (15, 1)])) =
    some (0xFF, 1) := by decide
theorem test_and : got (fun t => (t.reg 1, t.reg 15)) (run quiet 0x8122 (regs [(1, 0xF3), (2, 0x3C), (15, 1)])) =
    some (0x30, 1) := by decide
theorem test_xor : got (fun t => (t.reg 1, t.reg 15)) (run quiet 0x8123 (regs [(1, 0xF3), (2, 0x3C), (15, 1)])) =
    some (0xCF, 1) := by decide
theorem test_add_no_carry_at_255 : got (fun t => (t.reg 1, t.reg 15)) (run quiet 0x8124 (regs [(1, 0xFF), (15, 1)])) =
    some (0xFF, 0) := by decide
theorem test_add_flag_kept : got (fun t => t.reg 15) (run quiet 0x8F14 (regs [(15, 0xF0), (1, 0x20)])) = some 1 := by decide
theorem test_sub_borrow : got (fun t => (t.reg 1, t.reg 15)) (run quiet 0x8125 (regs [(1, 3), (2, 5)])) =
    some (0xFE, 0) := by decide
theorem test_sub_equal : got (fun t => (t.reg 1, t.reg 15)) (run quiet 0x8125 (regs [(1, 7), (2, 7)])) =
    some (0, 1) := by decide
theorem test_subn : got (fun t => (t.reg 1, t.reg 15)) (run quiet 0x8127 (regs [(1, 3), (2, 5)])) = some (2, 1) := by decide
theorem test_subn_flag_kept : got (fun t => t.reg 15) (run quiet 0x8F17 (regs [(15, 3), (1, 9)])) = some 1 := by decide
theorem test_shr_ignores_y : got (fun t => (t.reg 1, t.reg 15, t.reg 2)) (run quiet 0x8126 (regs [(1, 5), (2, 0xFF)])) =
    some (2, 1, 0xFF) := by decide
theorem test_shr_flag_kept : got (fun t => t.reg 15) (run quiet 0x8F06 (regs [(15, 2)])) = some 0 := by decide
theorem test_shl : got (fun t => (t.reg 1, t.reg 15, t.reg 2)) (run quiet 0x812E (regs [(1, 0x81), (2, 0xFF)])) =
    some (2, 1, 0xFF) := by decide
theorem test_shl_flag_kept : got (fun t => t.reg 15) (run quiet 0x8F0E (regs [(15, 0x7F)])) = some 0 := by decide

/-! ### Index and memory (95, 2.6) -/

theorem test_ldI : got (fun t => t.i) (run quiet 0xAFFF State.reset) = some 0x0FFF := by decide
theorem test_addI_wraps : got (fun t => t.i) (run quiet 0xF11E { regs [(1, 2)] with i := 0xFFFF }) = some 1 := by decide
theorem test_addI_no_flag : got (fun t => (t.i, t.reg 15)) (run quiet 0xF11E { regs [(1, 1), (15, 1)] with i := 0xFFF }) =
    some (0x1000, 1) := by decide
theorem test_ldFont_low_nibble : got (fun t => t.i) (run quiet 0xF129 { regs [(1, 0xFA)] with i := 0x999 }) =
    some 0x32 := by decide
theorem test_bcd_last_position : got (bytes 0xFFD 3) (run quiet 0xF033 { regs [(0, 0xFF)] with i := 0xFFD }) =
    some [2, 5, 5] := by decide
theorem test_bcd_font_region : got (fun t => (diag t, bytes 0x1FF 3 t)) (run quiet 0xF033 { regs [(0, 0x7B)] with i := 0x1FF }) =
    some ((true, 5, 0x200, 0xF033, 0), [0, 0xF0, 0x33]) := by decide
theorem test_storeRegs : got (fun t => (bytes 0x300 4 t, t.i))
    (run quiet 0xF255 { regs [(0, 0x11), (1, 0x22), (2, 0x33), (3, 0x44)] with i := 0x300 }) =
    some ([0x11, 0x22, 0x33, 0], 0x300) := by decide
theorem test_storeRegs_above : got (fun t => (t.faultCause, bytes 0xFF1 3 t))
    (run quiet 0xFF55 { regs [(0, 0xA0), (1, 0xA1)] with i := 0xFF1 }) = some (4, [0, 0, 0]) := by decide
theorem test_loadRegs : got (fun t => (t.reg 0, t.reg 1, t.reg 2, t.reg 3))
    (run quiet 0xF265 { regs [(0, 9), (1, 9), (2, 9), (3, 9)] with i := 0x300, mem := [(0x300, 1), (0x301, 2), (0x302, 3), (0x303, 4)] }) =
    some (1, 2, 3, 9) := by decide
theorem test_loadRegs_no_partial : got (fun t => (t.faultCause, t.reg 0)) (run quiet 0xF265 { regs [(0, 7)] with i := 0xFFE }) =
    some (4, 7) := by decide

/-! ### Display (95, 2.7) -/

theorem test_cls : got (fun t => (pixels [(5, 5), (31, 63)] t, t.dirty, t.reg 15))
    (run quiet 0x00E0 (lit 5 5 (lit 31 63 (regs [(15, 1)])))) = some ([false, false], true, 1) := by decide
/-- Columns wrap per pixel, on the same row. -/
theorem test_drw_wraps : got (fun t => (pixels [(0, 59), (0, 60), (0, 63), (0, 0), (0, 3), (0, 4), (1, 0)] t, t.reg 15, t.dirty))
    (run quiet 0xD011 { regs [(0, 0x3C)] with i := 0x300, mem := [(0x300, 0xFF)] }) =
    some ([false, true, true, true, true, false, false], 0, true) := by decide
theorem test_drw_collision : got (fun t => (pixels [(0, 0), (0, 1)] t, t.reg 15))
    (run quiet 0xD011 (lit 0 1 { State.reset with i := 0x300, mem := [(0x300, 0xC0)] })) =
    some ([true, false], 1) := by decide

/-! ### Timers, random, keypad (95, 2.8 and 2.9) -/

theorem test_rnd_masked : got (fun t => t.reg 1) (run ⟨0, 0xA7, false⟩ 0xC10F State.reset) = some 7 := by decide
theorem test_rnd_mask_zero : got (fun t => t.reg 1) (run ⟨0, 0xFF, false⟩ 0xC100 (regs [(1, 0x55)])) = some 0 := by decide
theorem test_ldVxDt_after_tick : got (fun t => (t.reg 1, t.dt)) (run quiet 0xF107 { State.reset with dt := 10 }) =
    some (9, 9) := by decide
theorem test_ldVxDt_saturates : got (fun t => (t.reg 1, t.dt)) (run quiet 0xF107 (regs [(1, 0x77)])) = some (0, 0) := by decide
theorem test_ldDtVx : got (fun t => t.dt) (run quiet 0xF115 { regs [(1, 0x3C)] with dt := 9 }) = some 60 := by decide
theorem test_ldStVx : got (fun t => (t.st, t.soundOn)) (run quiet 0xF118 (regs [(1, 2)])) = some (2, true) := by decide
theorem test_ldStVx_zero : got (fun t => (t.st, t.soundOn)) (run quiet 0xF118 { State.reset with st := 5 }) =
    some (0, false) := by decide
/-- The snapshot of FX0A's own step is latched but not scanned. -/
theorem test_ldVxKey : got (fun t => (t.waiting, t.keyReg, t.pc, t.reg 3)) (run ⟨0xFFFF, 0, false⟩ 0xF30A State.reset) =
    some (true, 3, 0x200, 0) := by decide
/-- Keys 9, 4 and C: the lowest wins, and nothing is fetched. -/
theorem test_wait_resolves : got (fun t => (t.reg 3, t.waiting, t.pc)) (hostStep ⟨0x1210, 0, false⟩ { State.reset with
    waiting := true, keyReg := 3 }) = some (4, false, 0x202) := by decide

/-! ### The hypotheses of the statements can be met

`witness_<statement>`: a concrete state and operands for every hypothesis of that statement, at the boundaries of its
clauses. -/

/-- The reset state with the word `op` where it fetches. -/
def ready (op : Word) : State := State.reset.placeWord op

theorem witness_LoadCopiesFromProgramBase :
    (0 < [(0x12 : Byte), 0].length ∧ 0x200 + 0 ≤ 0xFFF) ∧
    (3583 < (List.replicate 3585 (0xAA : Byte)).length ∧ 0x200 + 3583 ≤ 0xFFF) ∧
    (0x1FF < 0x200 ∧ 0x200 + [(0x12 : Byte), 0].length ≤ 0x202 ∧ 0xFFF < 0x1000) := by
  rw [List.length_replicate]; decide
theorem witness_EncodeOfDecodeIsTheWord : decode 0x8014 = .ok (.addReg 0 1) := rfl
theorem witness_DecodeFollowsTheOpcodeTable : decode 0xF265 = .ok (.loadRegs 2) := rfl
theorem witness_OpcodeRowsAreDisjoint : (⟨"8XY4", 0xF00F, 0x8004⟩ : OpcodeRow) ∈ opcodeTable ∧
    (⟨"8XY4", 0xF00F, 0x8004⟩ : OpcodeRow).covers 0x8014 = true := by decide
theorem witness_DecodesTo : (0x1ABC : Word) &&& 0xF000 = 0x1000 ∧ (0x3A42 : Word) &&& 0xF000 = 0x3000 ∧
    (0x9AB0 : Word) &&& 0xF00F = 0x9000 ∧ (0x6C7F : Word) &&& 0xF000 = 0x6000 ∧ (0x73FF : Word) &&& 0xF000 = 0x7000 ∧
    (0x8120 : Word) &&& 0xF00F = 0x8000 ∧ (0x8121 : Word) &&& 0xF00F = 0x8001 ∧ (0x8122 : Word) &&& 0xF00F = 0x8002 ∧
    (0x8123 : Word) &&& 0xF00F = 0x8003 ∧ (0xA123 : Word) &&& 0xF000 = 0xA000 ∧ (0xF129 : Word) &&& 0xF0FF = 0xF029 ∧
    (0x9AB1 : Word) &&& 0xF000 = 0x9000 ∧ (0x9AB1 : Word) &&& 0x000F ≠ 0 := by decide
theorem witness_SkipIfEqualImmediate : (regs [(10, 0x42)]).reg 10 = 0x42 ∧ (regs [(10, 0x43)]).reg 10 ≠ 0x42 := by decide
theorem witness_SkipIfRegistersDiffer : (regs [(10, 1), (11, 2)]).reg 10 ≠ (regs [(10, 1), (11, 2)]).reg 11 ∧
    (regs [(10, 2), (11, 2)]).reg 10 = (regs [(10, 2), (11, 2)]).reg 11 ∧ (3 : RegIndex) = 3 := by decide
theorem witness_CallPushesTheReturnAddress : ({ State.reset with sp := 15 } : State).sp.val < 16 ∧ State.reset.sp.val < 16 := by
  decide
theorem witness_ReturnPopsTheReturnAddress : 0 < ({ State.reset with sp := 1 } : State).sp.val ∧
    (15 : Fin 16).val + 1 = ({ State.reset with sp := 16 } : State).sp.val := by decide
theorem witness_StackExhaustionHalts : ({ State.reset with sp := 16 } : State).sp.val = 16 ∧ State.reset.sp.val = 0 := by
  decide
theorem witness_CallThenReturnResumesAfterTheCall : ({ State.reset with sp := 15 } : State).sp.val < 16 := by decide
theorem witness_AddRegistersSetsCarry : (1 : RegIndex) ≠ 15 ∧ (2 : RegIndex) ≠ 1 ∧ (2 : RegIndex) ≠ 15 := by decide
theorem witness_SubtractionsSetNoBorrow : (14 : RegIndex) ≠ 15 ∧ (0 : RegIndex) ≠ 14 ∧ (0 : RegIndex) ≠ 15 := by decide
theorem witness_ShiftsCaptureThePreShiftBit : (0 : RegIndex) ≠ 15 ∧ (14 : RegIndex) ≠ 0 ∧ (14 : RegIndex) ≠ 15 := by decide
/-- The first and the last place the three digits fit. -/
theorem witness_BcdStoresThreeDigits :
    (({ State.reset with i := 0x200 } : State).ea 0 = 0x200 ∧ 0x200 ≤ 0x200 ∧ 0x200 + 2 ≤ 0xFFF) ∧
    (({ State.reset with i := 0xFFD } : State).ea 0 = 0xFFD ∧ 0x200 ≤ 0xFFD ∧ 0xFFD + 2 ≤ 0xFFF) := by decide
/-- The first place, and the last place of all sixteen registers. -/
theorem witness_StoreRegistersWritesTheBlock :
    (({ State.reset with i := 0x200 } : State).ea 0 = 0x200 ∧ 0x200 ≤ 0x200 ∧ 0x200 + (0 : RegIndex).val ≤ 0xFFF) ∧
    (({ State.reset with i := 0xFF0 } : State).ea 0 = 0xFF0 ∧ 0x200 ≤ 0xFF0 ∧ 0xFF0 + (15 : RegIndex).val ≤ 0xFFF) := by
  decide
theorem witness_LoadRegistersReadsTheBlock : ({ State.reset with i := 0xFF0 } : State).ea (15 : RegIndex).val ≤ 0xFFF ∧
    State.reset.ea (0 : RegIndex).val ≤ 0xFFF := by decide
/-- The lowest address of each clause. -/
theorem witness_AccessAboveMemoryHalts : 0xFFF < ({ State.reset with i := 0xFFE } : State).ea 2 ∧
    0xFFF < ({ State.reset with i := 0xFF1 } : State).ea (15 : RegIndex).val ∧
    (0 < (1 : Fin 16).val ∧ 0xFFF < ({ State.reset with i := 0x1000 } : State).ea ((1 : Fin 16).val - 1)) := by decide
/-- The highest address of the font region. -/
theorem witness_StoreIntoTheFontRegionHalts : ({ State.reset with i := 0x1FF } : State).ea 0 < 0x200 := by decide
theorem witness_StoredWordIsFetchedNext : let s : State := { State.reset with pc := 0x206, i := 0x208 }
    1 ≤ (1 : RegIndex).val ∧ s.pc.toNat ≤ 0xFFC ∧ s.i = s.pc + 2 ∧ 0x200 ≤ s.ea 0 ∧ s.ea (1 : RegIndex).val ≤ 0xFFF := by
  decide
/-- N = 0 with `I` out of range, N = 1 at the last byte, and all fifteen rows. A pixel under a set bit and one not. -/
theorem witness_DrawTogglesThePixelsUnderSetBits :
    (0 < (0 : Fin 16).val → ({ State.reset with i := 0x1000 } : State).ea ((0 : Fin 16).val - 1) ≤ 0xFFF) ∧
    (0 < (1 : Fin 16).val → ({ State.reset with i := 0xFFF } : State).ea ((1 : Fin 16).val - 1) ≤ 0xFFF) ∧
    (0 < (15 : Fin 16).val → State.reset.ea ((15 : Fin 16).val - 1) ≤ 0xFFF) := by decide
theorem witness_DrawTogglesThePixelsUnderSetBits_set :
    let s : State := { State.reset with i := 0x300, mem := [(0x300, 0x80)] }
    ∃ j k : Nat, j < (1 : Fin 16).val ∧ k < 8 ∧ ((s.reg 1).toNat + j) % 32 = 0 ∧ ((s.reg 0).toNat + k) % 64 = 0 ∧
      (s.mem.read (s.ea j)).getLsbD (7 - k) = true := ⟨0, 0, by decide⟩
theorem witness_DrawTogglesThePixelsUnderSetBits_clear :
    ¬ ∃ j k : Nat, j < (0 : Fin 16).val ∧ k < 8 ∧ ((State.reset.reg 1).toNat + j) % 32 = 0 ∧
      ((State.reset.reg 0).toNat + k) % 64 = 0 ∧ (State.reset.mem.read (State.reset.ea j)).getLsbD (7 - k) = true :=
  fun ⟨_, _, h, _⟩ => absurd h (Nat.not_lt_zero _)
theorem witness_DrawReportsCollisionExactly :
    0 < (1 : Fin 16).val → ({ State.reset with i := 0xFFF } : State).ea ((1 : Fin 16).val - 1) ≤ 0xFFF := by decide
theorem witness_DrawTwiceRestoresTheScreen : (14 : RegIndex) ≠ 15 ∧ (0 : RegIndex) ≠ 15 ∧
    (0 < (5 : Fin 16).val → ({ State.reset with i := 0x300 } : State).ea ((5 : Fin 16).val - 1) ≤ 0xFFF) := by decide
theorem witness_RandomByteIsMasked : (0 : RegIndex) ≠ 1 ∧ (0 : Byte) = 0 ∧ (0xFF : Byte) = 0xFF := by decide
theorem witness_DelayTimerIsReadAfterTheTick : (ready 0xF107).running ∧ (ready 0xF107).pc.toNat ≤ 0xFFE ∧
    decode (ready 0xF107).wordAtPc = .ok (.ldVxDt 1) := ⟨⟨rfl, rfl⟩, by decide, rfl⟩
theorem witness_TimersAreSetAfterTheTick_dt : (ready 0xF115).running ∧ (ready 0xF115).pc.toNat ≤ 0xFFE ∧
    decode (ready 0xF115).wordAtPc = .ok (.ldDtVx 1) := ⟨⟨rfl, rfl⟩, by decide, rfl⟩
theorem witness_TimersAreSetAfterTheTick_st : (ready 0xF118).running ∧ (ready 0xF118).pc.toNat ≤ 0xFFE ∧
    decode (ready 0xF118).wordAtPc = .ok (.ldStVx 1) := ⟨⟨rfl, rfl⟩, by decide, rfl⟩
/-- A waiting core, with no key down and with keys down. -/
theorem witness_WaitingStepExecutesNothing : let s : State := { State.reset with waiting := true }
    s.halted = false ∧ s.waiting = true ∧ quiet.keypad = 0 ∧ (⟨0xFFFF, 0, false⟩ : HostInput).keypad ≠ 0 := by decide
/-- Key 0 with all down, key 15 alone. -/
theorem witness_WaitResolvesToTheLowestKey : let s : State := { State.reset with waiting := true }
    s.halted = false ∧ s.waiting = true ∧
    ((0xFFFF : BitVec 16).getLsbD (0 : RegIndex).val = true ∧
      ∀ j : RegIndex, j < 0 → (0xFFFF : BitVec 16).getLsbD j.val = false) ∧
    ((0x8000 : BitVec 16).getLsbD (15 : RegIndex).val = true ∧
      ∀ j : RegIndex, j < 15 → (0x8000 : BitVec 16).getLsbD j.val = false) := by decide
theorem witness_KeyWaitTakesTwoStepsWithAKeyHeld : (ready 0xF30A).running ∧ (ready 0xF30A).pc.toNat ≤ 0xFFE ∧
    decode (ready 0xF30A).wordAtPc = .ok (.ldVxKey 3) ∧ (0x0080 : BitVec 16).getLsbD (7 : RegIndex).val = true ∧
    ∀ j : RegIndex, j < 7 → (0x0080 : BitVec 16).getLsbD j.val = false := ⟨⟨rfl, rfl⟩, by decide, rfl, by decide, by decide⟩
theorem witness_StepRunsTheDecodedInstruction : (ready 0x8014).running ∧ (ready 0x8014).pc.toNat ≤ 0xFFE ∧
    decode (ready 0x8014).wordAtPc = .ok (.addReg 0 1) := ⟨⟨rfl, rfl⟩, by decide, rfl⟩
theorem witness_IllegalWordHaltsTheCore : State.reset.running ∧ State.reset.pc.toNat ≤ 0xFFE ∧
    legalWord State.reset.wordAtPc = false := ⟨⟨rfl, rfl⟩, by decide, by decide⟩
/-- The lowest and the highest address a fetch can fault at. -/
theorem witness_FetchAboveMemoryHaltsTheCore :
    (({ State.reset with pc := 0xFFF } : State).running ∧ 0xFFE < ({ State.reset with pc := 0xFFF } : State).pc.toNat) ∧
    0xFFE < ({ State.reset with pc := 0x10FE } : State).pc.toNat := ⟨⟨⟨rfl, rfl⟩, by decide⟩, by decide⟩
theorem witness_HaltedStepChangesNothing : ({ State.reset with halted := true } : State).halted = true := rfl
/-- A step that decrements both timers, and the steps of FX15 and FX18. -/
theorem witness_TimersTickOnceInEveryRunningStep : (ready 0x6000).running ∧
    (∃ t, hostStep quiet { ready 0x6000 with dt := 1, st := 255 } = .next t) ∧
    (∃ t, hostStep quiet (ready 0xF115) = .next t) ∧ ∃ t, hostStep quiet (ready 0xF118) = .next t :=
  ⟨⟨rfl, rfl⟩, ⟨_, rfl⟩, ⟨_, rfl⟩, ⟨_, rfl⟩⟩
theorem witness_EveryInstructionAdvancesPcAsStated :
    (∃ t, exec (.seImm 0 0) State.reset = .next t ∧ t.halted = false) ∧
    lowestKey ({ State.reset with keys := 0x8000 } : State).keys = some 15 ∧
    ({ State.reset with pc := 0x10FE } : State).pc.toNat ≤ 0x10FE := ⟨⟨_, rfl, rfl⟩, by decide, by decide⟩
/-- An instruction with its effect, one that faults, and both that store, at a place where they do. -/
theorem witness_InstructionsWriteOnlyTheirParts :
    (∃ t, exec (.storeRegs 3) ({ State.reset with i := 0x300 } : State) = .next t) ∧
    (∃ t, exec (.bcd 3) ({ State.reset with i := 0x300 } : State) = .next t) ∧
    ∃ t, exec .ret State.reset = .next t := ⟨⟨_, rfl⟩, ⟨_, rfl⟩, ⟨_, rfl⟩⟩
theorem witness_FaultsArePrecise : State.reset.running ∧ ∃ t, hostStep quiet State.reset = .next t ∧ t.halted = true :=
  ⟨⟨rfl, rfl⟩, ⟨_, rfl, rfl⟩⟩
theorem witness_FontRegionNeverChanges : (∃ t, hostStep quiet { ready 0xF055 with i := 0x1FF } = .next t) ∧ 0x1FF < 0x200 :=
  ⟨⟨_, rfl⟩, by decide⟩
theorem witness_HostInputsReachOnlyTheirReaders : (∃ t, exec (.ldVxKey 3) State.reset = .next t) ∧
    ∀ x nn, Instr.ldVxKey 3 ≠ .rnd x nn := ⟨⟨_, rfl⟩, fun _ _ h => by cases h⟩
theorem witness_SoundTimerAndDirtyAreUnobservable : ∃ t, exec (.drw 1 2 0) State.reset = .next t := ⟨_, rfl⟩
theorem witness_FinishedProgramStaysFinished : (ready 0x1200).finished := ⟨⟨rfl, rfl⟩, by decide, 0x200, rfl, rfl⟩
/-- A store in progress: memory lists a cell, and the step adds two. -/
theorem witness_EveryStepKeepsMemoryInv :
    MemoryInv { ready 0xF155 with i := 0x300, v := State.reset.v.set 0 1 } ∧
    ∃ t, step { ready 0xF155 with i := 0x300, v := State.reset.v.set 0 1 } = .next t :=
  ⟨by unfold MemoryInv; decide, ⟨_, rfl⟩⟩
/-- The largest `pc` the bound allows is reached by a jump, and a core waits in the FX0A at the last fetchable address. -/
theorem witness_EveryStepKeepsPcInv : PcInv { ready 0xBFFF with v := State.reset.v.set 0 0xFF } ∧
    (∃ t, step { ready 0xBFFF with v := State.reset.v.set 0 0xFF } = .next t) ∧
    PcInv { State.reset with pc := 0xFFE, mem := [(0xFFE, 0xF3), (0xFFF, 0x0A)], waiting := true, keyReg := 3 } :=
  ⟨⟨by decide, (fun h => nomatch h), by decide⟩, ⟨_, rfl⟩, ⟨by decide, fun _ => ⟨by decide, rfl⟩, by decide⟩⟩
/-- The core before and after the fault of 0x0000 at 0x200, and a step of each. -/
theorem witness_EveryStepKeepsFaultInv : FaultInv State.reset ∧ (∃ t, step State.reset = .next t) ∧
    FaultInv { State.reset with halted := true, faultCause := 1, faultPc := 0x200 } :=
  ⟨⟨fun _ => ⟨rfl, rfl, rfl, rfl⟩, (fun h => nomatch h)⟩, ⟨_, rfl⟩, (fun h => nomatch h), fun _ =>
    ⟨rfl, rfl, rfl, .inr ⟨by decide, rfl, .inl ⟨rfl, by decide⟩⟩⟩⟩
/-- A halted core for each other cause: 2345 at sp = 16, 00EE at sp = 0, F033 at I = 0xFFE and at I = 0x1FF. -/
theorem witness_EveryStepKeepsFaultInv_causes :
    FaultInv { ready 0x2345 with halted := true, sp := 16, faultCause := 2, faultPc := 0x200, faultOpcode := 0x2345, faultSp := 16 } ∧
    FaultInv { ready 0x00EE with halted := true, faultCause := 3, faultPc := 0x200, faultOpcode := 0x00EE } ∧
    FaultInv { ready 0xF033 with halted := true, i := 0xFFE, faultCause := 4, faultPc := 0x200, faultOpcode := 0xF033 } ∧
    FaultInv { ready 0xF033 with halted := true, i := 0x1FF, faultCause := 5, faultPc := 0x200, faultOpcode := 0xF033 } :=
  ⟨⟨(fun h => nomatch h), fun _ => ⟨rfl, rfl, rfl, .inr ⟨by decide, rfl, .inr ⟨.call 0x345, rfl, .inl ⟨rfl, ⟨_, rfl⟩, rfl⟩⟩⟩⟩⟩,
   ⟨(fun h => nomatch h), fun _ => ⟨rfl, rfl, rfl, .inr ⟨by decide, rfl, .inr ⟨.ret, rfl, .inr (.inl ⟨rfl, rfl, rfl⟩)⟩⟩⟩⟩,
   ⟨(fun h => nomatch h), fun _ => ⟨rfl, rfl, rfl, .inr ⟨by decide, rfl, .inr ⟨.bcd 0, rfl,
      .inr (.inr (.inl ⟨rfl, .inr (.inl ⟨0, rfl, by decide⟩)⟩))⟩⟩⟩⟩,
   ⟨(fun h => nomatch h), fun _ => ⟨rfl, rfl, rfl, .inr ⟨by decide, rfl, .inr ⟨.bcd 0, rfl,
      .inr (.inr (.inr ⟨rfl, 0, .inl rfl, by decide⟩))⟩⟩⟩⟩⟩
/-- States that meet each invariant before an AckDirty, with `dirty` set. -/
theorem witness_ResetMeetsTheInvariants : let s : State := { State.reset with dirty := true }
    MemoryInv s ∧ PcInv s ∧ FaultInv s :=
  ⟨⟨by decide, by decide⟩, ⟨by decide, (fun h => nomatch h), by decide⟩, fun _ => ⟨rfl, rfl, rfl, rfl⟩, (fun h => nomatch h)⟩
/-- 60_exceptions.md R238: AckDirty clears `dirty` and keeps the picture. -/
theorem test_ackDirty : let s : State := ({ lit 5 5 State.reset with dirty := true } : State).ackDirty
    s.dirty = false ∧ pixels [(5, 5)] s = [true] := by decide

end Sys2Proof.Tests
end

section
/-! The program-counter discipline (spec/40_cycle.md R126). -/

namespace Sys2Proof.Machine

/-- An instruction with a check that does not end halted has its effect: the only other outcome is a fault entry. -/
theorem finish_effect_of_not_halted {c : Option Fault} {i : Instr} {s t u : State} (h : finish c i s t = .next u)
    (hu : u.halted = false) : u = t := by
  rcases finish_cases c i s t u h with ⟨-, ht⟩ | ⟨f, -, rfl⟩
  · exact ht
  · rw [State.raise_halted] at hu; cases hu

/-- An instruction that does not end halted leaves `pc` at `nextPc`. -/
theorem exec_pc_eq_nextPc {i : Instr} {s t : State} (h : exec i s = .next t) (ht : t.halted = false) :
    t.pc = nextPc s i := by
  cases i
  case ret | call | drw | bcd | storeRegs | loadRegs =>
    -- the instructions with a check
    rw [finish_effect_of_not_halted h ht]; rfl
  case seImm x nn => cases h; simp [nextPc]
  case sneReg x y => cases h; simp [nextPc]
  all_goals (cases h; rfl)

/-- A wait resolved by a pressed key advances past its FX0A (spec/46_keypad.md R202). -/
theorem State.waitResolve_pc_of_pressed {s : State} {k : RegIndex} (h : lowestKey s.keys = some k) :
    s.waitResolve.pc = s.pc + 2 := by
  rw [State.waitResolve_pressed h]; rfl

/-- `pc + 2` and `pc + 4` of a reachable `pc` do not wrap (spec/10_state.md R22). -/
theorem pc_add_toNat_of_le {pc : Word} (h : pc.toNat ≤ 0x10FE) :
    (pc + 2).toNat = pc.toNat + 2 ∧ (pc + 4).toNat = pc.toNat + 4 := by
  constructor <;> bv_omega

/-- Settles O49, by cases on the instruction: each answers one state, or the fault entry, which is halted. -/
theorem everyInstructionAdvancesPcAsStated : Obligations.EveryInstructionAdvancesPcAsStated :=
  ⟨fun _ _ _ => exec_pc_eq_nextPc, fun _ _ => State.waitResolve_pc_of_pressed, fun _ => pc_add_toNat_of_le⟩

end Sys2Proof.Machine
end

section
/-! Control transfer: the words of 1NNN, 3XNN and 9XY0, and what these instructions write (spec/41_control_flow.md R141,
R143, R144). -/

namespace Sys2Proof.Machine

/-! ### Words told apart by the masks of the opcode table (spec/30_encoding.md R94) -/

/-- Mask 0x000F keeps the last nibble. -/
theorem and_000F (op : Word) : op &&& 0x000F#16 = formatXYN 0#4 0 0 (regNibble (fieldN op)) := by
  apply BitVec.eq_of_getLsbD_eq
  intro i hi
  rw [formatXYN_bit, BitVec.getLsbD_and, fieldN_bit]
  interval_cases i <;> simp [show regNibble 0 = 0#4 from rfl]

theorem fieldT_of_and_F000 {op : Word} {t : BitVec 4} (h : op &&& 0xF000#16 = formatA t 0#12) : fieldT op = t := by
  rw [and_F000] at h
  simpa only [fieldT_formatA] using congrArg fieldT h

theorem fieldT_of_and_F00F {op : Word} {t n : BitVec 4} (h : op &&& 0xF00F#16 = formatXYN t 0 0 n) : fieldT op = t := by
  rw [and_F00F] at h
  simpa only [fieldT_formatXYN] using congrArg fieldT h

theorem fieldN_of_and_F00F {op : Word} {t n : BitVec 4} (h : op &&& 0xF00F#16 = formatXYN t 0 0 n) :
    fieldN op = n.toFin := by
  rw [and_F00F] at h
  have hN := congrArg fieldN h
  rw [fieldN_formatXYN, fieldN_formatXYN] at hN
  exact hN

theorem fieldN_ne_zero_of_and_000F {op : Word} (h : op &&& 0x000F#16 ≠ 0#16) : fieldN op ≠ 0 := by
  intro h0
  apply h
  rw [and_000F, h0]; rfl

/-- A family the decoder takes by its leading nibble alone. -/
theorem decodesTo_of_fieldT {t : BitVec 4} {f : Word → Instr} (h : ∀ op, fieldT op = t → decode op = .ok (f op)) :
    DecodesTo 0xF000 (formatA t 0#12) f :=
  fun op hm => h op (fieldT_of_and_F000 hm)

/-! ### The decoder's families 1, 3 and 9 (spec/30_encoding.md R95) -/

theorem decode_family1 {op : Word} (h : fieldT op = 0x1#4) : decode op = .ok (.jp (fieldNNN op)) := by
  simp only [decode, h]

theorem decode_family3 {op : Word} (h : fieldT op = 0x3#4) : decode op = .ok (.seImm (fieldX op) (fieldNN op)) := by
  simp only [decode, h]

theorem decode_family9 {op : Word} (h : fieldT op = 0x9#4) :
    decode op = if fieldN op = 0 then .ok (.sneReg (fieldX op) (fieldY op)) else .error .family9 := by
  simp only [decode, h]

theorem decodesTo_sneReg : DecodesTo 0xF00F 0x9000 (fun op => .sneReg (fieldX op) (fieldY op)) := by
  intro op hm
  have hT : fieldT op = 0x9#4 := fieldT_of_and_F00F (n := 0#4) hm
  have hN : fieldN op = 0 := fieldN_of_and_F00F (t := 0x9#4) (n := 0#4) hm
  rw [decode_family9 hT, if_pos hN]

theorem decode_family9_refused {op : Word} (hm : op &&& 0xF000 = 0x9000) (hn : op &&& 0x000F ≠ 0) :
    decode op = .error .family9 := by
  have hT : fieldT op = 0x9#4 := fieldT_of_and_F000 hm
  rw [decode_family9 hT, if_neg (fieldN_ne_zero_of_and_000F hn)]

/-! ### What the instructions answer -/

theorem exec_jp (nnn : Address) (s : State) : exec (.jp nnn) s = .next (s.setPc (zext16 nnn)) := rfl

theorem exec_seImm (x : RegIndex) (nn : Byte) (s : State) : exec (.seImm x nn) s = .next (s.skipIf (s.reg x == nn)) := rfl

theorem exec_sneReg (x y : RegIndex) (s : State) : exec (.sneReg x y) s = .next (s.skipIf (s.reg x != s.reg y)) := rfl

/-- A transfer of control writes `pc` and nothing else (spec/10_state.md R38). -/
theorem State.setPc_keepsAllBut (s : State) (w : Word) : KeepsAllBut [.pc] s (s.setPc w) := by
  intro p hp
  cases p
  case pc => exact absurd (List.mem_singleton_self Part.pc) hp
  case v | mem => exact fun _ => rfl
  all_goals rfl

theorem State.skipIf_keepsAllBut (s : State) (c : Bool) : KeepsAllBut [.pc] s (s.skipIf c) := s.setPc_keepsAllBut _

theorem State.skipIf_pc_of_taken (s : State) {c : Bool} (h : c = true) : (s.skipIf c).pc = s.pc + 4 := by
  rw [State.skipIf_pc, if_pos h]

theorem State.skipIf_pc_of_not_taken (s : State) {c : Bool} (h : c = false) : (s.skipIf c).pc = s.pc + 2 := by
  rw [State.skipIf_pc, if_neg (Bool.eq_false_iff.mp h)]

/-! ### The obligations -/

/-- Settles O10: the decoder takes family 1 by its leading nibble, and a jump has no check and writes `pc` only. -/
theorem jumpSetsPcToNNN : Obligations.JumpSetsPcToNNN :=
  ⟨decodesTo_of_fieldT fun _ => decode_family1, fun nnn s =>
    ⟨_, exec_jp nnn s, zext16_toNat nnn (by decide), s.setPc_keepsAllBut _⟩⟩

/-- Settles O11, by the two sides of the comparison `V[X] = NN`. -/
theorem skipIfEqualImmediate : Obligations.SkipIfEqualImmediate :=
  ⟨decodesTo_of_fieldT fun _ => decode_family3, fun x nn s =>
    ⟨_, exec_seImm x nn s, fun h => s.skipIf_pc_of_taken (beq_iff_eq.mpr h),
      fun h => s.skipIf_pc_of_not_taken (beq_eq_false_iff_ne.mpr h), s.skipIf_keepsAllBut _⟩⟩

/-- Settles O12, by the two sides of the comparison `V[X] ≠ V[Y]`; at X = Y the registers are equal. -/
theorem skipIfRegistersDiffer : Obligations.SkipIfRegistersDiffer := by
  refine ⟨decodesTo_sneReg, fun _ => decode_family9_refused, fun x y s => ?_⟩
  have hstay (h : s.reg x = s.reg y) : (s.skipIf (s.reg x != s.reg y)).pc = s.pc + 2 :=
    s.skipIf_pc_of_not_taken (bne_eq_false_iff_eq.mpr h)
  exact ⟨_, exec_sneReg x y s, fun h => s.skipIf_pc_of_taken (bne_iff_ne.mpr h), hstay,
    fun hxy => hstay (congrArg s.reg hxy), s.skipIf_keepsAllBut _⟩

end Sys2Proof.Machine
end

section
/-! Register loads and logic: the words of 6XNN, 7XNN and 8XY0 to 8XY3, and what these instructions write
(spec/42_load_alu.md R151 to R156). -/

namespace Sys2Proof.Machine

/-! ### The decoder's families 6, 7 and 8 (spec/30_encoding.md R95) -/

theorem decode_family6 {op : Word} (h : fieldT op = 0x6#4) : decode op = .ok (.ldImm (fieldX op) (fieldNN op)) := by
  simp only [decode, h]

theorem decode_family7 {op : Word} (h : fieldT op = 0x7#4) : decode op = .ok (.addImm (fieldX op) (fieldNN op)) := by
  simp only [decode, h]

theorem decode_family8 {op : Word} (h : fieldT op = 0x8#4) : decode op = decodeFamily8 op := by
  simp only [decode, h]

/-- An instruction of family 8 is taken by its last nibble. -/
theorem decodesTo_of_family8 {n : BitVec 4} {f : Word → Instr}
    (h : ∀ op, fieldN op = n.toFin → decodeFamily8 op = .ok (f op)) : DecodesTo 0xF00F (formatXYN 0x8#4 0 0 n) f :=
  fun op hm => (decode_family8 (fieldT_of_and_F00F hm)).trans (h op (fieldN_of_and_F00F hm))

theorem decodesTo_ldReg : DecodesTo 0xF00F 0x8000 (fun op => .ldReg (fieldX op) (fieldY op)) :=
  decodesTo_of_family8 (n := 0x0#4) fun op h => by rw [decodeFamily8, h]; rfl

theorem decodesTo_orReg : DecodesTo 0xF00F 0x8001 (fun op => .orReg (fieldX op) (fieldY op)) :=
  decodesTo_of_family8 (n := 0x1#4) fun op h => by rw [decodeFamily8, h]; rfl

theorem decodesTo_andReg : DecodesTo 0xF00F 0x8002 (fun op => .andReg (fieldX op) (fieldY op)) :=
  decodesTo_of_family8 (n := 0x2#4) fun op h => by rw [decodeFamily8, h]; rfl

theorem decodesTo_xorReg : DecodesTo 0xF00F 0x8003 (fun op => .xorReg (fieldX op) (fieldY op)) :=
  decodesTo_of_family8 (n := 0x3#4) fun op h => by rw [decodeFamily8, h]; rfl

/-! ### What the instructions answer -/

theorem exec_ldImm (x : RegIndex) (nn : Byte) (s : State) : exec (.ldImm x nn) s = .next (s.setV x nn).advance := rfl

theorem exec_addImm (x : RegIndex) (nn : Byte) (s : State) :
    exec (.addImm x nn) s = .next (s.setV x (addByte (s.reg x) nn)).advance := rfl

theorem exec_ldReg (x y : RegIndex) (s : State) : exec (.ldReg x y) s = .next (s.setV x (s.reg y)).advance := rfl

theorem exec_orReg (x y : RegIndex) (s : State) :
    exec (.orReg x y) s = .next (s.setV x (s.reg x ||| s.reg y)).advance := rfl

theorem exec_andReg (x y : RegIndex) (s : State) :
    exec (.andReg x y) s = .next (s.setV x (s.reg x &&& s.reg y)).advance := rfl

theorem exec_xorReg (x y : RegIndex) (s : State) :
    exec (.xorReg x y) s = .next (s.setV x (s.reg x ^^^ s.reg y)).advance := rfl

/-! ### One register written, then the advance -/

theorem State.setV_advance_reg_self (s : State) (x : RegIndex) (b : Byte) : (s.setV x b).advance.reg x = b := by
  rw [State.advance_reg, State.setV_reg, if_pos rfl]

theorem State.setV_advance_reg_of_ne (s : State) {x r : RegIndex} (b : Byte) (h : r ≠ x) :
    (s.setV x b).advance.reg r = s.reg r := by
  rw [State.advance_reg, State.setV_reg, if_neg h]

theorem State.setV_keepsAllBut (s : State) (x : RegIndex) (b : Byte) : KeepsAllBut [.v] s (s.setV x b) := by
  intro p hp
  cases p
  case v => exact absurd (List.mem_singleton_self Part.v) hp
  case mem => exact fun _ => rfl
  all_goals rfl

theorem State.setV_advance_keepsAllBut (s : State) (x : RegIndex) (b : Byte) :
    KeepsAllBut [.v, .pc] s (s.setV x b).advance :=
  ((s.setV_keepsAllBut x b).mono (by decide)).trans (((s.setV x b).setPc_keepsAllBut _).mono (by decide))

/-- What every instruction that writes `V[x]` alone leaves: the other registers, VF among them, the advanced `pc`, and the
rest of the state. -/
theorem State.setV_advance_frame (s : State) (x : RegIndex) (b : Byte) :
    (∀ r, r ≠ x → (s.setV x b).advance.reg r = s.reg r) ∧ (s.setV x b).advance.pc = s.pc + 2 ∧
      KeepsAllBut [.v, .pc] s (s.setV x b).advance :=
  ⟨fun _ => s.setV_advance_reg_of_ne b, rfl, s.setV_advance_keepsAllBut x b⟩

/-! ### The obligations -/

/-- Settles O20: the decoder takes family 8 by its last nibble, and each instruction writes `V[X]` and `pc` only; the bits
of what it writes are those of the bytewise operation. -/
theorem copyAndLogicInstructionsWorkBitwise : Obligations.CopyAndLogicInstructionsWorkBitwise := by
  refine ⟨⟨decodesTo_ldReg, decodesTo_orReg, decodesTo_andReg, decodesTo_xorReg⟩, fun x y s => ⟨?_, ?_, ?_, ?_⟩⟩
  · exact ⟨_, exec_ldReg x y s, s.setV_advance_reg_self x _, s.setV_advance_frame x _⟩
  · exact ⟨_, exec_orReg x y s, fun k => by rw [State.setV_advance_reg_self, BitVec.getLsbD_or], s.setV_advance_frame x _⟩
  · exact ⟨_, exec_andReg x y s, fun k => by rw [State.setV_advance_reg_self, BitVec.getLsbD_and], s.setV_advance_frame x _⟩
  · exact ⟨_, exec_xorReg x y s, fun k => by rw [State.setV_advance_reg_self, BitVec.getLsbD_xor], s.setV_advance_frame x _⟩

/-- Settles O18: the decoder takes family 6 by its leading nibble, and the load writes `V[X]` and `pc` only. -/
theorem loadImmediateWritesItsRegister : Obligations.LoadImmediateWritesItsRegister :=
  ⟨decodesTo_of_fieldT fun _ => decode_family6, fun x nn s =>
    ⟨_, exec_ldImm x nn s, s.setV_advance_reg_self x nn, s.setV_advance_frame x nn⟩⟩

/-- Settles O19: the add writes the wrapped sum to `V[X]` and has no flag, so VF is one of the other registers unless it is
the destination. -/
theorem addImmediateWrapsWithoutFlag : Obligations.AddImmediateWrapsWithoutFlag := by
  refine ⟨decodesTo_of_fieldT fun _ => decode_family7, fun x nn s => ⟨_, exec_addImm x nn s, ?_, s.setV_advance_frame x _⟩⟩
  rw [State.setV_advance_reg_self, addByte_toNat]

end Sys2Proof.Machine
end

section
/-! The index register: the words of ANNN and FX29, and what these instructions write (spec/43_index_memory.md R170, R172). -/

namespace Sys2Proof.Machine

/-! ### The decoder's families A and F (spec/30_encoding.md R95) -/

theorem decode_familyA {op : Word} (h : fieldT op = 0xA#4) : decode op = .ok (.ldI (fieldNNN op)) := by
  simp only [decode, h]

theorem decode_familyF {op : Word} (h : fieldT op = 0xF#4) : decode op = decodeFamilyF op := by
  rw [decode, h]; rfl

theorem fieldT_of_and_F0FF {op : Word} {t : BitVec 4} {nn : Byte} (h : op &&& 0xF0FF#16 = formatXI t 0 nn) :
    fieldT op = t := by
  rw [and_F0FF] at h
  simpa only [fieldT_formatXI] using congrArg fieldT h

theorem fieldNN_of_and_F0FF {op : Word} {t : BitVec 4} {nn : Byte} (h : op &&& 0xF0FF#16 = formatXI t 0 nn) :
    fieldNN op = nn := by
  rw [and_F0FF] at h
  simpa only [fieldNN_formatXI] using congrArg fieldNN h

/-- An instruction of family F is taken by its low byte. -/
theorem decodesTo_of_familyF {nn : Byte} {f : Word → Instr}
    (h : ∀ op, fieldNN op = nn → decodeFamilyF op = .ok (f op)) : DecodesTo 0xF0FF (formatXI 0xF#4 0 nn) f :=
  fun op hm => (decode_familyF (fieldT_of_and_F0FF hm)).trans (h op (fieldNN_of_and_F0FF hm))

theorem decodesTo_ldFont : DecodesTo 0xF0FF 0xF029 (fun op => .ldFont (fieldX op)) :=
  decodesTo_of_familyF (nn := 0x29#8) fun op h => by rw [decodeFamilyF, h]; rfl

/-! ### What the instructions answer -/

theorem exec_ldI (nnn : Address) (s : State) : exec (.ldI nnn) s = .next (s.setI (zext16 nnn)).advance := rfl

theorem exec_ldFont (x : RegIndex) (s : State) :
    exec (.ldFont x) s = .next (s.setI (zext16 (s.reg x &&& 0x0F#8) * 5#16)).advance := rfl

/-- Five bytes a glyph, and the last glyph starts at 75: the product in 16 bits does not wrap. -/
theorem glyphAddress_toNat (b : Byte) : (zext16 (b &&& 0x0F#8) * 5#16).toNat = b.toNat % 16 * 5 := by
  have hlow : (b &&& 0x0F#8).toNat = b.toNat % 16 := by
    rw [BitVec.toNat_and]
    exact Nat.and_two_pow_sub_one_eq_mod b.toNat 4
  have hfits : b.toNat % 16 * 5 < 2 ^ 16 := by omega
  rw [BitVec.toNat_mul, zext16_toNat _ (by decide), hlow]
  exact Nat.mod_eq_of_lt hfits

/-! ### The index register written, then the advance -/

theorem State.setI_keepsAllBut (s : State) (w : Word) : KeepsAllBut [.i] s (s.setI w) := by
  intro p hp
  cases p
  case i => exact absurd (List.mem_singleton_self Part.i) hp
  case v | mem => exact fun _ => rfl
  all_goals rfl

/-- What every instruction that writes `I` alone leaves: the advanced `pc` and the rest of the state. -/
theorem State.setI_advance_frame (s : State) (w : Word) :
    (s.setI w).advance.pc = s.pc + 2 ∧ KeepsAllBut [.i, .pc] s (s.setI w).advance :=
  ⟨rfl, ((s.setI_keepsAllBut w).mono (by decide)).trans (((s.setI w).setPc_keepsAllBut _).mono (by decide))⟩

/-! ### The obligations -/

/-- Settles O24: the decoder takes family A by its leading nibble, and the load has no check and writes `I` and `pc` only. -/
theorem loadIndexWritesI : Obligations.LoadIndexWritesI :=
  ⟨decodesTo_of_fieldT fun _ => decode_familyA, fun nnn s =>
    ⟨_, exec_ldI nnn s, zext16_toNat nnn (by decide), s.setI_advance_frame _⟩⟩

/-- Settles O25: the decoder takes family F by its low byte, and the address of the glyph fits `I`. -/
theorem fontInstructionPointsAtTheGlyph : Obligations.FontInstructionPointsAtTheGlyph :=
  ⟨decodesTo_ldFont, fun x s =>
    ⟨_, exec_ldFont x s, glyphAddress_toNat (s.reg x), s.setI_advance_frame _⟩⟩

end Sys2Proof.Machine
end

section
/-! Clearing the screen: the word 00E0, and what the instruction writes (spec/44_display.md R180). -/

namespace Sys2Proof.Machine

/-! ### What the instruction answers -/

theorem decode_00E0 : decode 0x00E0 = .ok .cls := rfl

theorem exec_cls (s : State) : exec .cls s = .next (s.show blankScreen).advance := rfl

/-! ### A picture shown, then the advance -/

/-- A new picture writes the framebuffer and `dirty` and nothing else (spec/10_state.md R30). -/
theorem State.show_keepsAllBut (s : State) (fb : Framebuffer) : KeepsAllBut [.fb, .dirty] s (s.show fb) := by
  intro p hp
  cases p
  case fb | dirty => exact absurd hp (by decide)
  case v | mem => exact fun _ => rfl
  all_goals rfl

theorem State.show_advance_keepsAllBut (s : State) (fb : Framebuffer) :
    KeepsAllBut [.fb, .dirty, .pc] s (s.show fb).advance :=
  ((s.show_keepsAllBut fb).mono (by decide)).trans (((s.show fb).setPc_keepsAllBut _).mono (by decide))

/-! ### The obligation -/

/-- Settles O33: 00E0 has no check, it shows the blank screen, whose every pixel is 0, and advances `pc`; showing a picture
sets `dirty` whatever it was. -/
theorem clearScreenBlanksEveryPixel : Obligations.ClearScreenBlanksEveryPixel :=
  ⟨decode_00E0, fun s =>
    ⟨_, exec_cls s, pixelAt_blankScreen, s.show_dirty blankScreen, rfl, s.show_advance_keepsAllBut blankScreen⟩⟩

end Sys2Proof.Machine
end

section
/-! The decoder and the encoder undo each other, and the decode procedure follows the opcode table
(spec/30_encoding.md R91 to R97). -/

namespace Sys2Proof.Machine

/-! ### The decoder's other families (spec/30_encoding.md R95) -/

theorem decode_family0 {op : Word} (h : fieldT op = 0x0#4) : decode op = decodeFamily0 op := by
  simp only [decode, h]

theorem decode_family2 {op : Word} (h : fieldT op = 0x2#4) : decode op = .ok (.call (fieldNNN op)) := by
  simp only [decode, h]

theorem decode_family4 {op : Word} (h : fieldT op = 0x4#4) : decode op = .error .family4 := by
  simp only [decode, h]

theorem decode_family5 {op : Word} (h : fieldT op = 0x5#4) : decode op = .error .family5 := by
  simp only [decode, h]

theorem decode_familyB {op : Word} (h : fieldT op = 0xB#4) : decode op = .ok (.jpV0 (fieldNNN op)) := by
  simp only [decode, h]

theorem decode_familyC {op : Word} (h : fieldT op = 0xC#4) : decode op = .ok (.rnd (fieldX op) (fieldNN op)) := by
  simp only [decode, h]

theorem decode_familyD {op : Word} (h : fieldT op = 0xD#4) :
    decode op = .ok (.drw (fieldX op) (fieldY op) (fieldN op)) := by
  simp only [decode, h]

theorem decode_familyE {op : Word} (h : fieldT op = 0xE#4) : decode op = .error .familyE := by
  simp only [decode, h]

/-- The sixteen families of a word. -/
theorem nibble_cases (t : BitVec 4) :
    t = 0x0#4 ∨ t = 0x1#4 ∨ t = 0x2#4 ∨ t = 0x3#4 ∨ t = 0x4#4 ∨ t = 0x5#4 ∨ t = 0x6#4 ∨ t = 0x7#4 ∨
    t = 0x8#4 ∨ t = 0x9#4 ∨ t = 0xA#4 ∨ t = 0xB#4 ∨ t = 0xC#4 ∨ t = 0xD#4 ∨ t = 0xE#4 ∨ t = 0xF#4 := by
  revert t; decide

/-! ### Decoding an encoding -/

/-- By the format of the instruction: its family reads the leading nibble, then the fields come back one by one. -/
theorem decode_encode (i : Instr) : decode (encode i) = .ok i := by
  cases i
  case cls | ret => rfl
  case jp nnn => rw [encode, decode_family1 (fieldT_formatA _ _), fieldNNN_formatA]
  case call nnn => rw [encode, decode_family2 (fieldT_formatA _ _), fieldNNN_formatA]
  case ldI nnn => rw [encode, decode_familyA (fieldT_formatA _ _), fieldNNN_formatA]
  case jpV0 nnn => rw [encode, decode_familyB (fieldT_formatA _ _), fieldNNN_formatA]
  case seImm x nn => rw [encode, decode_family3 (fieldT_formatXI _ _ _), fieldX_formatXI, fieldNN_formatXI]
  case ldImm x nn => rw [encode, decode_family6 (fieldT_formatXI _ _ _), fieldX_formatXI, fieldNN_formatXI]
  case addImm x nn => rw [encode, decode_family7 (fieldT_formatXI _ _ _), fieldX_formatXI, fieldNN_formatXI]
  case rnd x nn => rw [encode, decode_familyC (fieldT_formatXI _ _ _), fieldX_formatXI, fieldNN_formatXI]
  case sneReg x y =>
    rw [encode, decode_family9 (fieldT_formatXYN _ _ _ _), fieldN_formatXYN, fieldX_formatXYN, fieldY_formatXYN]; rfl
  case drw x y n =>
    rw [encode, decode_familyD (fieldT_formatXYN _ _ _ _), fieldN_formatXYN, fieldX_formatXYN, fieldY_formatXYN]; rfl
  case ldReg x y | orReg x y | andReg x y | xorReg x y | addReg x y | subReg x y | shr x y | subnReg x y | shl x y =>
    rw [encode, decode_family8 (fieldT_formatXYN _ _ _ _), decodeFamily8, fieldN_formatXYN, fieldX_formatXYN,
      fieldY_formatXYN]; rfl
  case ldVxDt x | ldVxKey x | ldDtVx x | ldStVx x | addI x | ldFont x | bcd x | storeRegs x | loadRegs x =>
    rw [encode, decode_familyF (fieldT_formatXI _ _ _), decodeFamilyF, fieldNN_formatXI, fieldX_formatXI]; rfl

/-! ### Encoding what was decoded -/

theorem formatA_of_fieldT {op : Word} {t : BitVec 4} (h : fieldT op = t) : formatA t (fieldNNN op) = op :=
  h ▸ formatA_fields op

theorem formatXI_of_fields {op : Word} {t : BitVec 4} {nn : Byte} (h : fieldT op = t) (hnn : fieldNN op = nn) :
    formatXI t (fieldX op) nn = op :=
  h ▸ hnn ▸ formatXI_fields op

theorem formatXYN_of_fields {op : Word} {t n : BitVec 4} (h : fieldT op = t) (hn : regNibble (fieldN op) = n) :
    formatXYN t (fieldX op) (fieldY op) n = op :=
  h ▸ hn ▸ formatXYN_fields op

theorem encode_of_decodeFamily0 {op : Word} {i : Instr} (h : decodeFamily0 op = .ok i) : encode i = op := by
  unfold decodeFamily0 at h
  split at h
  · next he => cases h; exact he.symm
  · split at h
    · next he => cases h; exact he.symm
    · cases h

theorem encode_of_decodeFamily8 {op : Word} {i : Instr} (hT : fieldT op = 0x8#4) (h : decodeFamily8 op = .ok i) :
    encode i = op := by
  unfold decodeFamily8 at h
  split at h <;> cases h
  -- the nine instructions, each with its last nibble
  all_goals next hN => exact formatXYN_of_fields hT (congrArg regNibble hN)

theorem encode_of_decodeFamilyF {op : Word} {i : Instr} (hT : fieldT op = 0xF#4) (h : decodeFamilyF op = .ok i) :
    encode i = op := by
  unfold decodeFamilyF at h
  split at h <;> cases h
  -- the nine instructions, each with its low byte
  all_goals next hNN => exact formatXI_of_fields hT hNN

/-- By the family of the word: the instruction holds every field of it, and the family the rest. -/
theorem encode_of_decode {op : Word} {i : Instr} (h : decode op = .ok i) : encode i = op := by
  rcases nibble_cases (fieldT op) with
    hT | hT | hT | hT | hT | hT | hT | hT | hT | hT | hT | hT | hT | hT | hT | hT
  · exact encode_of_decodeFamily0 (decode_family0 hT ▸ h)
  · rw [decode_family1 hT] at h; cases h; exact formatA_of_fieldT hT
  · rw [decode_family2 hT] at h; cases h; exact formatA_of_fieldT hT
  · rw [decode_family3 hT] at h; cases h; exact formatXI_of_fields hT rfl
  · rw [decode_family4 hT] at h; cases h
  · rw [decode_family5 hT] at h; cases h
  · rw [decode_family6 hT] at h; cases h; exact formatXI_of_fields hT rfl
  · rw [decode_family7 hT] at h; cases h; exact formatXI_of_fields hT rfl
  · exact encode_of_decodeFamily8 hT (decode_family8 hT ▸ h)
  · rw [decode_family9 hT] at h
    split at h
    · next hN => cases h; exact formatXYN_of_fields hT (congrArg regNibble hN)
    · cases h
  · rw [decode_familyA hT] at h; cases h; exact formatA_of_fieldT hT
  · rw [decode_familyB hT] at h; cases h; exact formatA_of_fieldT hT
  · rw [decode_familyC hT] at h; cases h; exact formatXI_of_fields hT rfl
  · rw [decode_familyD hT] at h; cases h; exact formatXYN_of_fields hT rfl
  · rw [decode_familyE hT] at h; cases h
  · exact encode_of_decodeFamilyF hT (decode_familyF hT ▸ h)

/-! ### The opcode table (spec/30_encoding.md R94) -/

/-- The decoder takes every word the row covers, as an instruction that bears the row's pattern. -/
def RowIsDecoded (r : OpcodeRow) : Prop := ∃ f, DecodesTo r.mask r.value f ∧ ∀ op, (f op).pattern = r.pattern

/-- Mask 0xFFFF keeps the whole word. -/
theorem decodesTo_of_whole_word {w : Word} {i : Instr} (h : decode w = .ok i) : DecodesTo 0xFFFF w (fun _ => i) := by
  intro op hm
  rw [show op &&& 0xFFFF = op from BitVec.and_allOnes] at hm
  rw [hm, h]

theorem opcodeTableLow_decoded : ∀ r ∈ opcodeTableLow, RowIsDecoded r := by
  simp only [opcodeTableLow, List.forall_mem_cons]
  exact ⟨⟨_, decodesTo_of_whole_word rfl, fun _ => rfl⟩, ⟨_, decodesTo_of_whole_word rfl, fun _ => rfl⟩,
    ⟨_, decodesTo_of_fieldT fun _ => decode_family1, fun _ => rfl⟩,
    ⟨_, decodesTo_of_fieldT fun _ => decode_family2, fun _ => rfl⟩,
    ⟨_, decodesTo_of_fieldT fun _ => decode_family3, fun _ => rfl⟩,
    ⟨_, decodesTo_of_fieldT fun _ => decode_family6, fun _ => rfl⟩,
    ⟨_, decodesTo_of_fieldT fun _ => decode_family7, fun _ => rfl⟩, List.forall_mem_nil _⟩

/-- A row of family 8, by the last nibble. -/
theorem rowIsDecoded_of_family8 {p : String} (n : BitVec 4) (f : Word → Instr) (hp : ∀ op, (f op).pattern = p)
    (h : ∀ op, fieldN op = n.toFin → decodeFamily8 op = .ok (f op)) :
    RowIsDecoded ⟨p, 0xF00F, formatXYN 0x8#4 0 0 n⟩ :=
  ⟨f, decodesTo_of_family8 h, hp⟩

theorem opcodeTableAlu_decoded : ∀ r ∈ opcodeTableAlu, RowIsDecoded r := by
  simp only [opcodeTableAlu, List.forall_mem_cons]
  refine ⟨rowIsDecoded_of_family8 0x0#4 (fun op => .ldReg (fieldX op) (fieldY op)) (fun _ => rfl) ?_,
    rowIsDecoded_of_family8 0x1#4 (fun op => .orReg (fieldX op) (fieldY op)) (fun _ => rfl) ?_,
    rowIsDecoded_of_family8 0x2#4 (fun op => .andReg (fieldX op) (fieldY op)) (fun _ => rfl) ?_,
    rowIsDecoded_of_family8 0x3#4 (fun op => .xorReg (fieldX op) (fieldY op)) (fun _ => rfl) ?_,
    rowIsDecoded_of_family8 0x4#4 (fun op => .addReg (fieldX op) (fieldY op)) (fun _ => rfl) ?_,
    rowIsDecoded_of_family8 0x5#4 (fun op => .subReg (fieldX op) (fieldY op)) (fun _ => rfl) ?_,
    rowIsDecoded_of_family8 0x6#4 (fun op => .shr (fieldX op) (fieldY op)) (fun _ => rfl) ?_,
    rowIsDecoded_of_family8 0x7#4 (fun op => .subnReg (fieldX op) (fieldY op)) (fun _ => rfl) ?_,
    rowIsDecoded_of_family8 0xE#4 (fun op => .shl (fieldX op) (fieldY op)) (fun _ => rfl) ?_, List.forall_mem_nil _⟩
  all_goals (intro op h; rw [decodeFamily8, h]; rfl)

theorem opcodeTableHigh_decoded : ∀ r ∈ opcodeTableHigh, RowIsDecoded r := by
  simp only [opcodeTableHigh, List.forall_mem_cons]
  exact ⟨⟨_, decodesTo_sneReg, fun _ => rfl⟩,
    ⟨_, decodesTo_of_fieldT fun _ => decode_familyA, fun _ => rfl⟩,
    ⟨_, decodesTo_of_fieldT fun _ => decode_familyB, fun _ => rfl⟩,
    ⟨_, decodesTo_of_fieldT fun _ => decode_familyC, fun _ => rfl⟩,
    ⟨_, decodesTo_of_fieldT fun _ => decode_familyD, fun _ => rfl⟩, List.forall_mem_nil _⟩

/-- A row of family F, by the low byte. -/
theorem rowIsDecoded_of_familyF {p : String} (nn : Byte) (f : Word → Instr) (hp : ∀ op, (f op).pattern = p)
    (h : ∀ op, fieldNN op = nn → decodeFamilyF op = .ok (f op)) : RowIsDecoded ⟨p, 0xF0FF, formatXI 0xF#4 0 nn⟩ :=
  ⟨f, decodesTo_of_familyF h, hp⟩

theorem opcodeTableF_decoded : ∀ r ∈ opcodeTableF, RowIsDecoded r := by
  simp only [opcodeTableF, List.forall_mem_cons]
  refine ⟨rowIsDecoded_of_familyF 0x07#8 (fun op => .ldVxDt (fieldX op)) (fun _ => rfl) ?_,
    rowIsDecoded_of_familyF 0x0A#8 (fun op => .ldVxKey (fieldX op)) (fun _ => rfl) ?_,
    rowIsDecoded_of_familyF 0x15#8 (fun op => .ldDtVx (fieldX op)) (fun _ => rfl) ?_,
    rowIsDecoded_of_familyF 0x18#8 (fun op => .ldStVx (fieldX op)) (fun _ => rfl) ?_,
    rowIsDecoded_of_familyF 0x1E#8 (fun op => .addI (fieldX op)) (fun _ => rfl) ?_,
    rowIsDecoded_of_familyF 0x29#8 (fun op => .ldFont (fieldX op)) (fun _ => rfl) ?_,
    rowIsDecoded_of_familyF 0x33#8 (fun op => .bcd (fieldX op)) (fun _ => rfl) ?_,
    rowIsDecoded_of_familyF 0x55#8 (fun op => .storeRegs (fieldX op)) (fun _ => rfl) ?_,
    rowIsDecoded_of_familyF 0x65#8 (fun op => .loadRegs (fieldX op)) (fun _ => rfl) ?_, List.forall_mem_nil _⟩
  all_goals (intro op h; rw [decodeFamilyF, h]; rfl)

theorem opcodeTable_decoded : ∀ r ∈ opcodeTable, RowIsDecoded r := by
  simp only [opcodeTable, List.forall_mem_append]
  exact ⟨⟨⟨opcodeTableLow_decoded, opcodeTableAlu_decoded⟩, opcodeTableHigh_decoded⟩, opcodeTableF_decoded⟩

/-- A word a row covers decodes to an instruction of that row's pattern. -/
theorem decode_of_covers {r : OpcodeRow} (hr : r ∈ opcodeTable) {op : Word} (hc : r.covers op = true) :
    ∃ i, decode op = .ok i ∧ i.pattern = r.pattern := by
  obtain ⟨f, hdec, hpat⟩ := opcodeTable_decoded r hr
  exact ⟨f op, hdec op (beq_iff_eq.mp hc), hpat op⟩

/-- Every instruction is encoded in its own row: the thirty facts of Sys2Proof/Laws/PerInstr.lean. -/
theorem encode_in_its_row (i : Instr) : Laws.EncodesItsRow.Statement i := by
  cases i
  case cls => exact Laws.EncodesItsRow.cls
  case ret => exact Laws.EncodesItsRow.ret
  case jp nnn => exact Laws.EncodesItsRow.jp nnn
  case call nnn => exact Laws.EncodesItsRow.call nnn
  case seImm x nn => exact Laws.EncodesItsRow.seImm x nn
  case ldImm x nn => exact Laws.EncodesItsRow.ldImm x nn
  case addImm x nn => exact Laws.EncodesItsRow.addImm x nn
  case ldReg x y => exact Laws.EncodesItsRow.ldReg x y
  case orReg x y => exact Laws.EncodesItsRow.orReg x y
  case andReg x y => exact Laws.EncodesItsRow.andReg x y
  case xorReg x y => exact Laws.EncodesItsRow.xorReg x y
  case addReg x y => exact Laws.EncodesItsRow.addReg x y
  case subReg x y => exact Laws.EncodesItsRow.subReg x y
  case shr x y => exact Laws.EncodesItsRow.shr x y
  case subnReg x y => exact Laws.EncodesItsRow.subnReg x y
  case shl x y => exact Laws.EncodesItsRow.shl x y
  case sneReg x y => exact Laws.EncodesItsRow.sneReg x y
  case ldI nnn => exact Laws.EncodesItsRow.ldI nnn
  case jpV0 nnn => exact Laws.EncodesItsRow.jpV0 nnn
  case rnd x nn => exact Laws.EncodesItsRow.rnd x nn
  case drw x y n => exact Laws.EncodesItsRow.drw x y n
  case ldVxDt x => exact Laws.EncodesItsRow.ldVxDt x
  case ldVxKey x => exact Laws.EncodesItsRow.ldVxKey x
  case ldDtVx x => exact Laws.EncodesItsRow.ldDtVx x
  case ldStVx x => exact Laws.EncodesItsRow.ldStVx x
  case addI x => exact Laws.EncodesItsRow.addI x
  case ldFont x => exact Laws.EncodesItsRow.ldFont x
  case bcd x => exact Laws.EncodesItsRow.bcd x
  case storeRegs x => exact Laws.EncodesItsRow.storeRegs x
  case loadRegs x => exact Laws.EncodesItsRow.loadRegs x

/-- A word that decodes is covered by the row of its instruction, for the word is the instruction's encoding. -/
theorem covers_of_decode {op : Word} {i : Instr} (h : decode op = .ok i) :
    ∃ r ∈ opcodeTable, r.pattern = i.pattern ∧ r.covers op = true :=
  encode_of_decode h ▸ encode_in_its_row i

theorem decode_ok_iff_legalWord (op : Word) : (∃ i, decode op = .ok i) ↔ legalWord op = true := by
  rw [legalWord, List.any_eq_true]
  constructor
  · rintro ⟨i, h⟩
    obtain ⟨r, hr, -, hc⟩ := covers_of_decode h
    exact ⟨r, hr, hc⟩
  · rintro ⟨r, hr, hc⟩
    obtain ⟨i, h, -⟩ := decode_of_covers hr hc
    exact ⟨i, h⟩

/-- The decoder refuses exactly the words no row covers. -/
theorem decode_error_iff_not_legalWord (op : Word) : (∃ r, decode op = .error r) ↔ legalWord op = false := by
  rw [← Bool.not_eq_true, ← decode_ok_iff_legalWord]
  cases decode op <;> simp

theorem opcodeTable_pattern_nodup : (opcodeTable.map OpcodeRow.pattern).Nodup := by decide

/-! ### The illegal words (spec/30_encoding.md R97) -/

theorem fieldT_toNat (op : Word) : (fieldT op).toNat = op.toNat / 4096 := by
  have := op.isLt
  simp only [fieldT, BitVec.extractLsb'_toNat, Nat.shiftRight_eq_div_pow]
  omega

theorem fieldN_val (op : Word) : (fieldN op).val = op.toNat % 16 := by
  show (op.extractLsb' 0 4).toNat = _
  simp [BitVec.extractLsb'_toNat]

theorem fieldNN_toNat (op : Word) : (fieldNN op).toNat = op.toNat % 256 := by
  simp [fieldNN, BitVec.extractLsb'_toNat]

theorem decodeFamily0_error_iff (op : Word) :
    (∃ r, decodeFamily0 op = .error r) ↔ op.toNat ≠ 0x00E0 ∧ op.toNat ≠ 0x00EE := by
  have h0 : op = 0x00E0#16 ↔ op.toNat = 0x00E0 := BitVec.toNat_inj.symm
  have hE : op = 0x00EE#16 ↔ op.toNat = 0x00EE := BitVec.toNat_inj.symm
  rw [Ne, Ne, ← h0, ← hE]
  unfold decodeFamily0
  split
  · next h => simp [h]
  · split
    · next h => simp [h]
    · next h h' => simp [h, h']

theorem decodeFamily8_error_iff (op : Word) :
    (∃ r, decodeFamily8 op = .error r) ↔ 8 ≤ op.toNat % 16 ∧ op.toNat % 16 ≠ 14 := by
  rw [← fieldN_val, decodeFamily8]
  generalize fieldN op = n
  fin_cases n <;> simp

theorem decodeFamilyF_error_iff (op : Word) : (∃ r, decodeFamilyF op = .error r) ↔
    op.toNat % 256 ∉ [0x07, 0x0A, 0x15, 0x18, 0x1E, 0x29, 0x33, 0x55, 0x65] := by
  rw [← fieldNN_toNat, decodeFamilyF]
  split
  iterate 9
    next h => simp [h]
  -- none of the nine low bytes
  simp_all [← BitVec.toNat_inj]

theorem decode_family9_error_iff {op : Word} (h : fieldT op = 0x9#4) :
    (∃ r, decode op = .error r) ↔ op.toNat % 16 ≠ 0 := by
  have hN : fieldN op = 0 ↔ op.toNat % 16 = 0 := by rw [← fieldN_val]; exact Fin.ext_iff
  rw [decode_family9 h, Ne, ← hN]
  split
  · next h0 => simp [h0]
  · next h0 => simp [h0]

theorem not_refused {op : Word} {i : Instr} (h : decode op = .ok i) : ¬ ∃ r, decode op = .error r := by
  rintro ⟨r, hr⟩
  rw [h] at hr; cases hr

/-! ### The obligations -/

/-- Settles O4, by the format of each instruction. -/
theorem decodeOfEncodeIsTheInstruction : Obligations.DecodeOfEncodeIsTheInstruction := decode_encode

/-- Settles O5, by the family of the word. -/
theorem encodeOfDecodeIsTheWord : Obligations.EncodeOfDecodeIsTheWord := fun _ _ => encode_of_decode

/-- Settles O6: a covered word decodes by its row, and a word that decodes is the encoding of its instruction, which the
instruction's row covers. -/
theorem decodeFollowsTheOpcodeTable : Obligations.DecodeFollowsTheOpcodeTable :=
  fun op => ⟨decode_ok_iff_legalWord op, fun _ => covers_of_decode⟩

/-- Settles O7: both rows bear the pattern of the one instruction the word decodes to, and no pattern occurs twice. -/
theorem opcodeRowsAreDisjoint : Obligations.OpcodeRowsAreDisjoint := by
  intro op r hr r' hr' hc hc'
  obtain ⟨i, hi, hp⟩ := decode_of_covers hr hc
  obtain ⟨i', hi', hp'⟩ := decode_of_covers hr' hc'
  have hii' : i = i' := by rw [hi] at hi'; exact Except.ok.inj hi'
  exact List.inj_on_of_nodup_map opcodeTable_pattern_nodup hr hr' (by rw [← hp, ← hp', hii'])

/-- Settles O8, by the family of the word, which is the word divided by 4096. -/
theorem illegalWordsAreTheListedOnes : Obligations.IllegalWordsAreTheListedOnes := by
  intro op
  have hlt := op.isLt
  have hdiv := fieldT_toNat op
  rcases nibble_cases (fieldT op) with
    hT | hT | hT | hT | hT | hT | hT | hT | hT | hT | hT | hT | hT | hT | hT | hT <;>
    simp only [hT, BitVec.toNat_ofNat] at hdiv
  · rw [decode_family0 hT, decodeFamily0_error_iff]; omega
  · exact iff_of_false (not_refused (decode_family1 hT)) (by omega)
  · exact iff_of_false (not_refused (decode_family2 hT)) (by omega)
  · exact iff_of_false (not_refused (decode_family3 hT)) (by omega)
  · exact iff_of_true ⟨_, decode_family4 hT⟩ (by omega)
  · exact iff_of_true ⟨_, decode_family5 hT⟩ (by omega)
  · exact iff_of_false (not_refused (decode_family6 hT)) (by omega)
  · exact iff_of_false (not_refused (decode_family7 hT)) (by omega)
  · rw [decode_family8 hT, decodeFamily8_error_iff]; omega
  · rw [decode_family9_error_iff hT]; omega
  · exact iff_of_false (not_refused (decode_familyA hT)) (by omega)
  · exact iff_of_false (not_refused (decode_familyB hT)) (by omega)
  · exact iff_of_false (not_refused (decode_familyC hT)) (by omega)
  · exact iff_of_false (not_refused (decode_familyD hT)) (by omega)
  · exact iff_of_true ⟨_, decode_familyE hT⟩ (by omega)
  · rw [decode_familyF hT, decodeFamilyF_error_iff]
    constructor
    · intro h
      exact .inr (.inr (.inr (.inr (.inr ⟨by omega, h⟩))))
    · rintro (h | h | h | h | h | ⟨-, h⟩)
      case inr.inr.inr.inr.inr => exact h
      all_goals omega

/-- Settles O9, by running the decoder on each word. -/
theorem sampleWordsDecode : Obligations.SampleWordsDecode :=
  ⟨rfl, rfl, rfl, rfl, rfl, rfl, rfl, rfl, rfl, rfl, rfl, rfl⟩

end Sys2Proof.Machine
end

section
/-! Control transfer through V0 and the stack: BNNN, 2NNN and 00EE (spec/41_control_flow.md R140, R142, R145). -/

namespace Sys2Proof.Machine

/-! ### What the stack operations write -/

theorem State.push_stack_self (s : State) (a : Word) (h : s.sp.val < 16) : (s.push a).stack[s.sp.val] = a := by
  simp [State.push_stack s a h]

theorem State.push_stack_of_ne (s : State) (a : Word) (h : s.sp.val < 16) (k : Fin 16) (hk : k.val ≠ s.sp.val) :
    (s.push a).stack[k] = s.stack[k] := by
  simp [State.push_stack s a h, Ne.symm hk]

/-- The address pushed is the one on top. -/
theorem State.push_top (s : State) (a : Word) (h : s.sp.val < 16) : (s.push a).top = a := by
  simp [State.push, State.top, h]

theorem State.push_keepsAllBut (s : State) (a : Word) : KeepsAllBut [.stack, .sp] s (s.push a) := by
  intro p hp
  cases p
  case stack | sp => exact absurd hp (by decide)
  all_goals simp [Agree]

theorem State.drop_keepsAllBut (s : State) : KeepsAllBut [.sp] s s.drop := by
  intro p hp
  cases p
  case sp => exact absurd hp (by decide)
  case v | mem => exact fun _ => rfl
  all_goals rfl

theorem State.push_setPc_keepsAllBut (s : State) (a w : Word) :
    KeepsAllBut [.stack, .sp, .pc] s ((s.push a).setPc w) :=
  ((s.push_keepsAllBut a).mono (by decide)).trans (((s.push a).setPc_keepsAllBut w).mono (by decide))

theorem State.drop_setPc_keepsAllBut (s : State) (w : Word) : KeepsAllBut [.sp, .pc] s (s.drop.setPc w) :=
  (s.drop_keepsAllBut.mono (by decide)).trans ((s.drop.setPc_keepsAllBut w).mono (by decide))

/-- A push and a drop after it leave `sp` where it was, and write the stack and `pc` only. -/
theorem State.push_drop_keepsAllBut (s : State) (a w w' : Word) (h : s.sp.val < 16) :
    KeepsAllBut [.stack, .pc] s ((((s.push a).setPc w).drop).setPc w') := by
  intro p hp
  cases p
  case stack | pc => exact absurd hp (by decide)
  case sp => exact Fin.ext (by simp [State.push_sp s a h])
  all_goals simp [Agree]

/-! ### The jump through V0 -/

theorem exec_jpV0 (nnn : Address) (s : State) : exec (.jpV0 nnn) s = .next (s.setPc (zext16 nnn + zext16 (s.reg 0))) := rfl

/-- A 12-bit address and a byte add up in 16 bits without a wrap. -/
theorem zext16_add_toNat (nnn : Address) (b : Byte) : (zext16 nnn + zext16 b).toNat = nnn.toNat + b.toNat := by
  have hn := nnn.isLt
  have hb := b.isLt
  rw [BitVec.toNat_add, zext16_toNat nnn (by decide), zext16_toNat b (by decide)]
  omega

/-- The largest target of BNNN (spec/10_state.md R22). -/
theorem zext16_add_le (nnn : Address) (b : Byte) : (zext16 nnn + zext16 b).toNat ≤ 0x10FE := by
  have hn := nnn.isLt
  have hb := b.isLt
  rw [zext16_add_toNat]
  omega

/-! ### The obligations -/

/-- Settles O13: the sum fits 16 bits. -/
theorem jumpWithOffsetKeepsTheWholeSum : Obligations.JumpWithOffsetKeepsTheWholeSum :=
  fun nnn s => ⟨_, exec_jpV0 nnn s, zext16_add_toNat nnn _, zext16_add_le nnn _, s.setPc_keepsAllBut _⟩

/-- Settles O14: with room the push is the one of spec/10_state.md R25. -/
theorem callPushesTheReturnAddress : Obligations.CallPushesTheReturnAddress :=
  fun nnn s h => ⟨_, exec_call_of_room nnn s h, s.push_stack_self _ h, s.push_stack_of_ne _ h, s.push_sp _ h,
    zext16_toNat nnn (by decide), s.push_setPc_keepsAllBut _ _⟩

/-- Settles O15: the top of the stack is the entry below `sp`. -/
theorem returnPopsTheReturnAddress : Obligations.ReturnPopsTheReturnAddress := by
  refine fun s h => ⟨_, exec_ret_of_pos s h, fun k hk => ?_, ?_, s.drop_setPc_keepsAllBut _⟩
  · have hk' : s.sp.val - 1 = k.val := by omega
    simp [State.top, hk']
  · simp only [State.setPc_sp, State.drop_sp]; omega

/-- Settles O16: each stack check fails, and a failed check is the fault entry. -/
theorem stackExhaustionHalts : Obligations.StackExhaustionHalts :=
  ⟨fun nnn s h => ⟨_, exec_call_of_full nnn s h, s.raise_faulted _ _⟩,
    fun s h => ⟨_, exec_ret_of_empty s h, s.raise_faulted _ _⟩⟩

/-- Settles O17: the return finds on top the address the call pushed. -/
theorem callThenReturnResumesAfterTheCall : Obligations.CallThenReturnResumesAfterTheCall := by
  intro nnn s h
  have hpos : 0 < ((s.push (s.pc + 2)).setPc (zext16 nnn)).sp.val := by
    rw [State.setPc_sp, State.push_sp s _ h]; omega
  exact ⟨_, _, exec_call_of_room nnn s h, exec_ret_of_pos _ hpos, s.push_top _ h,
    fun k hk => s.push_stack_of_ne _ h k (Nat.ne_of_lt hk), s.push_drop_keepsAllBut _ _ _ h⟩

end Sys2Proof.Machine
end

section
/-! Arithmetic with a flag: 8XY4 to 8XY7 and 8XYE (spec/42_load_alu.md R157 to R161). -/

namespace Sys2Proof.Machine

/-! ### What the instructions answer -/

theorem exec_addReg (x y : RegIndex) (s : State) : exec (.addReg x y) s =
    .next (s.setResult x (addByte (s.reg x) (s.reg y)) (carry (s.reg x) (s.reg y))).advance := rfl

theorem exec_subReg (x y : RegIndex) (s : State) : exec (.subReg x y) s =
    .next (s.setResult x (subByte (s.reg x) (s.reg y)) (noBorrow (s.reg x) (s.reg y))).advance := rfl

theorem exec_subnReg (x y : RegIndex) (s : State) : exec (.subnReg x y) s =
    .next (s.setResult x (subByte (s.reg y) (s.reg x)) (noBorrow (s.reg y) (s.reg x))).advance := rfl

theorem exec_shr (x y : RegIndex) (s : State) :
    exec (.shr x y) s = .next (s.setResult x (shrByte (s.reg x)) (shrFlag (s.reg x))).advance := rfl

theorem exec_shl (x y : RegIndex) (s : State) :
    exec (.shl x y) s = .next (s.setResult x (shlByte (s.reg x)) (shlFlag (s.reg x))).advance := rfl

/-! ### A result and its flag written, then the advance -/

theorem State.setResult_advance_keepsAllBut (s : State) (x : RegIndex) (r : Byte) (c : Bool) :
    KeepsAllBut [.v, .pc] s (s.setResult x r c).advance :=
  ((s.setV_keepsAllBut x r).mono (by decide)).trans ((s.setV x r).setV_advance_keepsAllBut vf (flagByte c))

theorem State.setResult_advance_flag (s : State) (x : RegIndex) (r : Byte) (c : Bool) :
    (s.setResult x r c).advance.reg 15 = flagByte c := by
  simp [vf]

theorem State.setResult_advance_reg_self (s : State) {x : RegIndex} (r : Byte) (c : Bool) (h : x ≠ 15) :
    (s.setResult x r c).advance.reg x = r := by
  simp [vf, h]

/-- What every instruction with a flag leaves: the registers but `V[x]` and VF, the advanced `pc`, and the rest of the
state. -/
theorem State.setResult_advance_frame (s : State) (x : RegIndex) (r : Byte) (c : Bool) :
    (∀ q, q ≠ x → q ≠ 15 → (s.setResult x r c).advance.reg q = s.reg q) ∧
      (s.setResult x r c).advance.pc = s.pc + 2 ∧ KeepsAllBut [.v, .pc] s (s.setResult x r c).advance :=
  ⟨fun q hx hf => by simp [vf, hx, hf], rfl, s.setResult_advance_keepsAllBut x r c⟩

/-! ### The flags -/

theorem flagByte_decide_toNat (p : Prop) [Decidable p] : (flagByte (decide p)).toNat = if p then 1 else 0 := by
  by_cases h : p <;> simp [h, flagByte]

/-- The bit a right shift drops is the remainder. -/
theorem shrFlag_toNat (a : Byte) : (flagByte (shrFlag a)).toNat = a.toNat % 2 := by
  rw [shrFlag_eq, flagByte_decide_toNat]; split <;> omega

/-- The bit a left shift drops is bit 7. -/
theorem shlFlag_toNat (a : Byte) : (flagByte (shlFlag a)).toNat = a.toNat / 128 := by
  have ha := a.isLt
  rw [shlFlag_eq, flagByte_decide_toNat]; split <;> omega

/-- A subtraction in full: the flag, the wrapped difference, and the frame. -/
theorem State.setResult_sub (s : State) (x : RegIndex) (a b : Byte) :
    let t := (s.setResult x (subByte a b) (noBorrow a b)).advance
    (t.reg 15).toNat = (if a.toNat ≥ b.toNat then 1 else 0) ∧
      (x ≠ 15 → (t.reg x).toNat = if a.toNat ≥ b.toNat then a.toNat - b.toNat else 256 + a.toNat - b.toNat) ∧
      (∀ r, r ≠ x → r ≠ 15 → t.reg r = s.reg r) ∧ t.pc = s.pc + 2 ∧ KeepsAllBut [.v, .pc] s t := by
  refine ⟨?_, fun h => ?_, s.setResult_advance_frame x _ _⟩
  · rw [State.setResult_advance_flag, noBorrow, flagByte_decide_toNat]
  · rw [State.setResult_advance_reg_self _ _ _ h, subByte_toNat]

/-! ### The obligations -/

/-- Settles O21: the flag is written last, so it is the carry even at X = 15. -/
theorem addRegistersSetsCarry : Obligations.AddRegistersSetsCarry := by
  refine fun x y s => ⟨_, exec_addReg x y s, ?_, fun h => ?_, s.setResult_advance_frame x _ _⟩
  · rw [State.setResult_advance_flag, carry, flagByte_decide_toNat]
  · rw [State.setResult_advance_reg_self _ _ _ h, addByte_toNat]

/-- Settles O22: the two instructions are one subtraction with its operands exchanged. -/
theorem subtractionsSetNoBorrow : Obligations.SubtractionsSetNoBorrow :=
  fun x y s => ⟨⟨_, exec_subReg x y s, s.setResult_sub x _ _⟩, ⟨_, exec_subnReg x y s, s.setResult_sub x _ _⟩⟩

/-- Settles O23: neither instruction looks at `V[Y]`. -/
theorem shiftsCaptureThePreShiftBit : Obligations.ShiftsCaptureThePreShiftBit := by
  intro x y s
  constructor
  · refine ⟨_, exec_shr x y s, ?_, fun h => ?_, s.setResult_advance_frame x _ _⟩
    · rw [State.setResult_advance_flag, shrFlag_toNat]
    · rw [State.setResult_advance_reg_self _ _ _ h, shrByte_toNat]
  · refine ⟨_, exec_shl x y s, ?_, fun h => ?_, s.setResult_advance_frame x _ _⟩
    · rw [State.setResult_advance_flag, shlFlag_toNat]
    · rw [State.setResult_advance_reg_self _ _ _ h, shlByte_toNat]

end Sys2Proof.Machine
end

section
/-! The index register's sum and the blocks of memory: FX1E, FX33, FX55 and FX65, with the address checks they share with
DXYN (spec/43_index_memory.md R171 to R175, spec/60_exceptions.md R226, R227). -/

namespace Sys2Proof.Machine

/-! ### The sum of FX1E -/

theorem exec_addI (x : RegIndex) (s : State) :
    exec (.addI x) s = .next (s.setI (BitVec.ofNat 16 (s.i.toNat + (s.reg x).toNat))).advance := rfl

/-! ### Stored bytes -/

/-- A byte of a stored block is read back at its place. -/
theorem Memory.read_store_of_getElem? (m : Memory) (a k : Nat) {bs : List Byte} {b : Byte} (h : bs[k]? = some b) :
    (m.store a bs).read (a + k) = b := by
  rw [Memory.read_store, if_pos (Nat.le_add_right a k), Nat.add_sub_cancel_left, h]; rfl

theorem State.storeBytes_keepsAllBut (s : State) (a : Nat) (bs : List Byte) :
    KeepsAllBut [.mem] s (s.storeBytes a bs) := by
  intro p hp
  cases p
  case mem => exact absurd hp (by decide)
  case v => exact fun _ => rfl
  all_goals rfl

theorem State.storeBytes_advance_keepsAllBut (s : State) (a : Nat) (bs : List Byte) :
    KeepsAllBut [.mem, .pc] s (s.storeBytes a bs).advance :=
  ((s.storeBytes_keepsAllBut a bs).mono (by decide)).trans (((s.storeBytes a bs).setPc_keepsAllBut _).mono (by decide))

/-- What every instruction that stores a block leaves: the memory outside the block, the advanced `pc`, and the rest of the
state. -/
theorem State.storeBytes_advance_frame (s : State) (a : Nat) {bs : List Byte} {n : Nat} (hn : bs.length = n) :
    KeepsMemoryOutside a n s (s.storeBytes a bs).advance ∧ (s.storeBytes a bs).advance.pc = s.pc + 2 ∧
      KeepsAllBut [.mem, .pc] s (s.storeBytes a bs).advance := by
  subst hn
  exact ⟨fun c hc => s.mem.read_store_outside a bs c hc, rfl, s.storeBytes_advance_keepsAllBut a bs⟩

/-- FX55 stores register `r` at `I + r`. -/
theorem State.storeBytes_regBlock_read (s : State) (a : Nat) {x r : RegIndex} (h : r ≤ x) :
    (s.storeBytes a (s.regBlock x)).advance.mem.read (a + r.val) = s.reg r :=
  s.mem.read_store_of_getElem? a r.val (s.regBlock_get x r h)

theorem digit_toNat {n : Nat} (h : n < 256) : (BitVec.ofNat 8 n).toNat = n := by
  rw [BitVec.toNat_ofNat]
  exact Nat.mod_eq_of_lt h

/-! ### Loaded registers -/

theorem State.setVs_keepsAllBut (s : State) (w : Vector Byte 16) : KeepsAllBut [.v] s (s.setVs w) := by
  intro p hp
  cases p
  case v => exact absurd hp (by decide)
  case mem => exact fun _ => rfl
  all_goals rfl

theorem State.setVs_advance_keepsAllBut (s : State) (w : Vector Byte 16) :
    KeepsAllBut [.v, .pc] s (s.setVs w).advance :=
  ((s.setVs_keepsAllBut w).mono (by decide)).trans (((s.setVs w).setPc_keepsAllBut _).mono (by decide))

/-- What FX65 leaves but for the registers: the advanced `pc` and the rest of the state. -/
theorem State.setVs_advance_frame (s : State) (w : Vector Byte 16) :
    (s.setVs w).advance.pc = s.pc + 2 ∧ KeepsAllBut [.v, .pc] s (s.setVs w).advance :=
  ⟨rfl, s.setVs_advance_keepsAllBut w⟩

/-! ### The address checks -/

theorem State.ea_eq_add (s : State) (k : Nat) : s.ea k = s.ea 0 + k := rfl

theorem readFault_outOfRange {a n : Nat} (h : 0 < n) (h' : 0x1000 < a + n) : readFault a n = some .addressOutOfRange := by
  rw [readFault_eq, if_pos ⟨h, h'⟩]

theorem writeFault_outOfRange {a n : Nat} (h : 0 < n) (h' : 0x1000 < a + n) :
    writeFault a n = some .addressOutOfRange := by
  rw [writeFault_eq, if_pos ⟨h, h'⟩]

theorem writeFault_fontRegion {a n : Nat} (h : 0 < n) (hn : n ≤ 16) (ha : a < 0x200) :
    writeFault a n = some .fontRegionWrite := by
  rw [writeFault_eq, if_neg (by omega), if_pos ⟨h, ha⟩]

/-! ### The obligations -/

/-- Settles O26: the sum is narrowed to 16 bits. -/
theorem addToIndexWrapsAt65536 : Obligations.AddToIndexWrapsAt65536 :=
  fun x s => ⟨_, exec_addI x s, BitVec.toNat_ofNat _ _, s.setI_advance_frame _⟩

/-- Settles O27: the three digits are the stored block. -/
theorem bcdStoresThreeDigits : Obligations.BcdStoresThreeDigits := by
  rintro x s _ rfl hlo hhi
  have hb := (s.reg x).isLt
  have hread (k d : Nat) (hd : d < 256) (hk : (bcdDigits (s.reg x))[k]? = some (BitVec.ofNat 8 d)) :
      ((s.storeBytes (s.ea 0) (bcdDigits (s.reg x))).advance.mem.read (s.ea 0 + k)).toNat = d := by
    rw [State.advance_mem, State.storeBytes_mem, s.mem.read_store_of_getElem? _ k hk, digit_toNat hd]
  exact ⟨_, exec_bcd_of_inRam x s hlo (by omega), hread 0 _ (by omega) rfl, hread 1 _ (by omega) rfl,
    hread 2 _ (by omega) rfl, s.storeBytes_advance_frame _ rfl⟩

/-- Settles O28: the registers are the stored block. -/
theorem storeRegistersWritesTheBlock : Obligations.StoreRegistersWritesTheBlock := by
  rintro x s _ rfl hlo hhi
  exact ⟨_, exec_storeRegs_of_inRam x s hlo (by omega), fun _ => s.storeBytes_regBlock_read _,
    s.storeBytes_advance_frame _ (s.regBlock_length x)⟩

/-- Settles O29: a register is loaded exactly when it is at most X. -/
theorem loadRegistersReadsTheBlock : Obligations.LoadRegistersReadsTheBlock := by
  intro x s h
  have hin : s.ea 0 + (x.val + 1) ≤ 0x1000 := by rw [State.ea_eq_add] at h; omega
  refine ⟨_, exec_loadRegs_of_inRange x s hin, fun r hr => ?_, fun r hr => ?_, s.setVs_advance_frame _⟩
  · rw [State.advance_reg, State.setVs_reg, State.loadedRegs_get, if_pos hr]
  · rw [State.advance_reg, State.setVs_reg, State.loadedRegs_get, if_neg (Fin.not_le.mpr hr)]

/-- Settles O30: the check of each of the four instructions fails, and a failed check is the fault entry. -/
theorem accessAboveMemoryHalts : Obligations.AccessAboveMemoryHalts := by
  refine ⟨fun x s h => ?_, fun x s h => ?_, fun x y n s hn h => ?_⟩ <;> rw [State.ea_eq_add] at h
  · exact ⟨_, exec_bcd_of_fault x s _ (writeFault_outOfRange (by decide) (by omega)), s.raise_faulted _ _⟩
  · exact ⟨⟨_, exec_storeRegs_of_fault x s _ (writeFault_outOfRange (by omega) (by omega)), s.raise_faulted _ _⟩,
      ⟨_, exec_loadRegs_of_fault x s _ (readFault_outOfRange (by omega) (by omega)), s.raise_faulted _ _⟩⟩
  · exact ⟨_, exec_drw_of_fault x y n s _ (readFault_outOfRange hn (by omega)), s.raise_faulted _ _⟩

/-- Settles O31: at most sixteen bytes from below 0x200 do not reach 0x1000, so the font check is the one that fails. -/
theorem storeIntoTheFontRegionHalts : Obligations.StoreIntoTheFontRegionHalts :=
  fun x s h =>
    ⟨⟨_, exec_bcd_of_fault x s _ (writeFault_fontRegion (by decide) (by decide) h), s.raise_faulted _ _⟩,
      ⟨_, exec_storeRegs_of_fault x s _ (writeFault_fontRegion (by omega) (by omega) h), s.raise_faulted _ _⟩⟩

/-- Settles O32: the advanced `pc` is `I`, and the first two stored bytes are `V[0]` and `V[1]`. -/
theorem storedWordIsFetchedNext : Obligations.StoredWordIsFetchedNext := by
  intro x s hx hpc hi hlo hhi
  have hx1 : (1 : RegIndex) ≤ x := hx
  rw [State.ea_eq_add] at hhi
  refine ⟨_, exec_storeRegs_of_inRam x s hlo (by omega), ?_⟩
  have hnext : (s.storeBytes (s.ea 0) (s.regBlock x)).advance.pc.toNat = s.ea 0 := congrArg BitVec.toNat hi.symm
  rw [State.fetch_ok _ (by omega), hnext]
  have h0 := s.storeBytes_regBlock_read (s.ea 0) (Fin.zero_le x)
  have h1 := s.storeBytes_regBlock_read (s.ea 0) hx1
  exact congrArg Except.ok (congrArg₂ bigEndian h0 h1)

end Sys2Proof.Machine
end

section
/-! The draw: DXYN (spec/44_display.md R181, R182). -/

namespace Sys2Proof.Machine

/-- A set bit of the sprite lands on the pixel at `(row, col)`. -/
def State.spriteHits (s : State) (x y : RegIndex) (n : Fin 16) (row col : Nat) : Bool :=
  decide (rowOffset (s.reg y).toNat row < n.val) && decide (columnOffset (s.reg x).toNat col < 8) &&
    spriteBit (s.mem.read (s.ea (rowOffset (s.reg y).toNat row))) (columnOffset (s.reg x).toNat col)

/-- The state DXYN leaves when its check passes. -/
def State.drawn (s : State) (x y : RegIndex) (n : Fin 16) : State :=
  ((s.show (s.draw x y n).fb).setV vf (flagByte (s.draw x y n).collision)).advance

section
variable (s : State) (x y : RegIndex) (n : Fin 16)

theorem exec_drw (h : 0 < n.val → s.ea (n.val - 1) ≤ 0xFFF) : exec (.drw x y n) s = .next (s.drawn x y n) := by
  rw [State.ea_eq_add] at h
  exact exec_drw_of_inRange x y n s (by omega)

/-! ### The pixels -/

/-- In the coordinates of the sprite: row `j` and column `k` of it, around the screen. -/
theorem State.spriteHits_iff (row col : Nat) : s.spriteHits x y n row col = true ↔
    ∃ j k : Nat, j < n.val ∧ k < 8 ∧ ((s.reg y).toNat + j) % 32 = row % 32 ∧ ((s.reg x).toNat + k) % 64 = col % 64 ∧
      (s.mem.read (s.ea j)).getLsbD (7 - k) = true := by
  simp only [State.spriteHits, Bool.and_eq_true, decide_eq_true_eq]
  constructor
  · rintro ⟨⟨hj, hk⟩, hb⟩
    exact ⟨_, _, hj, hk, (rowOffset_eq_iff _ _ _ (by omega)).mp rfl, (columnOffset_eq_iff _ _ _ (by omega)).mp rfl, hb⟩
  · rintro ⟨j, k, hj, hk, hrow, hcol, hb⟩
    rw [(rowOffset_eq_iff _ _ j (by omega)).mpr hrow, (columnOffset_eq_iff _ _ k (by omega)).mpr hcol]
    exact ⟨⟨hj, hk⟩, hb⟩

theorem State.drawn_pixel (row col : Nat) :
    pixelAt (s.drawn x y n).fb row col = xor (pixelAt s.fb row col) (s.spriteHits x y n row col) :=
  s.draw_pixel x y n row col

/-- The collision is a set bit of the sprite on a lit pixel. -/
theorem State.draw_collision_iff : (s.draw x y n).collision = true ↔
    ∃ row col : Nat, pixelAt s.fb row col = true ∧ s.spriteHits x y n row col = true := by
  rw [State.draw_collision]
  constructor
  · rintro ⟨j, hj, k, hk, hb, hp⟩
    exact ⟨_, _, hp, (s.spriteHits_iff x y n _ _).mpr ⟨j, k, hj, hk, rfl, rfl, hb⟩⟩
  · rintro ⟨row, col, hp, hhit⟩
    obtain ⟨j, k, hj, hk, hrow, hcol, hb⟩ := (s.spriteHits_iff x y n row col).mp hhit
    exact ⟨j, hj, k, hk, hb, (pixelAt_congr s.fb hrow hcol).trans hp⟩

/-! ### The registers and the frame -/

theorem State.drawn_vf : (s.drawn x y n).reg 15 = flagByte (s.draw x y n).collision := by
  simp [State.drawn, vf]

theorem State.drawn_reg_of_ne {r : RegIndex} (h : r ≠ 15) : (s.drawn x y n).reg r = s.reg r := by
  simp [State.drawn, vf, h]

theorem State.drawn_keepsAllBut : KeepsAllBut [.fb, .v, .dirty, .pc] s (s.drawn x y n) :=
  ((s.show_keepsAllBut _).mono (by decide)).trans (((s.show _).setV_advance_keepsAllBut vf _).mono (by decide))

/-- A draw at registers other than VF does not move the sprite. -/
theorem State.drawn_spriteHits (hx : x ≠ 15) (hy : y ≠ 15) (row col : Nat) :
    (s.drawn x y n).spriteHits x y n row col = s.spriteHits x y n row col := by
  rw [State.spriteHits, State.drawn_reg_of_ne s x y n hx, State.drawn_reg_of_ne s x y n hy]; rfl

end

theorem flagByte_eq_one_iff (c : Bool) : flagByte c = 1 ↔ c = true := by cases c <;> decide

/-! ### The obligations -/

/-- Settles O34: a pixel is the exclusive or of what it was and of the bit that lands on it. -/
theorem drawTogglesThePixelsUnderSetBits : Obligations.DrawTogglesThePixelsUnderSetBits := by
  refine fun x y n s h => ⟨_, exec_drw s x y n h, fun row col hrow hcol => ?_, rfl,
    fun r hr => s.drawn_reg_of_ne x y n hr, rfl, s.drawn_keepsAllBut x y n⟩
  have hhit := s.spriteHits_iff x y n row col
  rw [Nat.mod_eq_of_lt hrow, Nat.mod_eq_of_lt hcol] at hhit
  rw [State.drawn_pixel, ← hhit]
  exact ⟨fun hset => by rw [hset, Bool.xor_true],
    fun hclear => by rw [Bool.eq_false_iff.mpr hclear, Bool.xor_false]⟩

/-- Settles O35: a lit pixel goes out exactly when a set bit lands on it. -/
theorem drawReportsCollisionExactly : Obligations.DrawReportsCollisionExactly := by
  intro x y n s h
  have hout (row col : Nat) : (pixelAt s.fb row col = true ∧ pixelAt (s.drawn x y n).fb row col = false) ↔
      (pixelAt s.fb row col = true ∧ s.spriteHits x y n row col = true) := by
    rw [State.drawn_pixel]
    exact and_congr_right fun hlit => by rw [hlit, Bool.true_xor, Bool.not_eq_false']
  refine ⟨_, exec_drw s x y n h, ?_, ?_⟩
  · rw [State.drawn_vf]
    cases (s.draw x y n).collision
    · exact .inl rfl
    · exact .inr rfl
  · rw [State.drawn_vf, flagByte_eq_one_iff, State.draw_collision_iff]
    simp only [hout]

/-- Settles O36: the second draw lands on the same pixels, and a pixel toggled twice is as it was. -/
theorem drawTwiceRestoresTheScreen : Obligations.DrawTwiceRestoresTheScreen := by
  refine fun x y n s hx hy h => ⟨_, _, exec_drw s x y n h, exec_drw (s.drawn x y n) x y n h,
    framebuffer_ext fun row col => ?_⟩
  rw [State.drawn_pixel, State.drawn_pixel, State.drawn_spriteHits s x y n hx hy, Bool.xor_assoc, Bool.xor_self,
    Bool.xor_false]

end Sys2Proof.Machine
end

section
/-! The frame of every instruction: it writes the parts its rule names and nothing else, or it is a fault entry
(spec/10_state.md R20 to R38, spec/60_exceptions.md R224). -/

namespace Sys2Proof.Machine

/-! ### The other updates of the state -/

theorem State.setDt_keepsAllBut (s : State) (b : Byte) : KeepsAllBut [.dt] s (s.setDt b) := by
  intro p hp
  cases p
  case dt => exact absurd hp (by decide)
  case v | mem => exact fun _ => rfl
  all_goals rfl

theorem State.setSt_keepsAllBut (s : State) (b : Byte) : KeepsAllBut [.st] s (s.setSt b) := by
  intro p hp
  cases p
  case st => exact absurd hp (by decide)
  case v | mem => exact fun _ => rfl
  all_goals rfl

theorem State.setDt_advance_keepsAllBut (s : State) (b : Byte) : KeepsAllBut [.dt, .pc] s (s.setDt b).advance :=
  ((s.setDt_keepsAllBut b).mono (by decide)).trans (((s.setDt b).setPc_keepsAllBut _).mono (by decide))

theorem State.setSt_advance_keepsAllBut (s : State) (b : Byte) : KeepsAllBut [.st, .pc] s (s.setSt b).advance :=
  ((s.setSt_keepsAllBut b).mono (by decide)).trans (((s.setSt b).setPc_keepsAllBut _).mono (by decide))

theorem State.enterWait_keepsAllBut (s : State) (x : RegIndex) : KeepsAllBut [.waiting, .keyReg] s (s.enterWait x) := by
  intro p hp
  cases p
  case waiting | keyReg => exact absurd hp (by decide)
  case v | mem => exact fun _ => rfl
  all_goals rfl

/-! ### Every instruction -/

/-- An instruction with a check has the frame of its effect, or is a fault entry. -/
theorem finish_frame {c : Option Fault} {i : Instr} {s t u : State} {ps : List Part} (h : finish c i s t = .next u)
    (ht : KeepsAllBut ps s t) : KeepsAllBut ps s u ∨ ∃ f, u = s.raise f (encode i) := by
  rcases finish_cases c i s t u h with ⟨-, rfl⟩ | ⟨f, -, hu⟩
  · exact .inl ht
  · exact .inr ⟨f, hu⟩

theorem exec_frame {i : Instr} {s t : State} (h : exec i s = .next t) :
    KeepsAllBut (writtenParts i) s t ∨ ∃ f, t = s.raise f (encode i) := by
  cases i
  -- the instructions with a check
  case ret => exact finish_frame h (s.drop_setPc_keepsAllBut _)
  case call => exact finish_frame h (s.push_setPc_keepsAllBut _ _)
  case drw x y n => exact finish_frame h (s.drawn_keepsAllBut x y n)
  case bcd | storeRegs => exact finish_frame h (s.storeBytes_advance_keepsAllBut _ _)
  case loadRegs => exact finish_frame h (s.setVs_advance_keepsAllBut _)
  -- the others, by what they write
  case cls => cases h; exact .inl (s.show_advance_keepsAllBut _)
  case jp | jpV0 => cases h; exact .inl (s.setPc_keepsAllBut _)
  case seImm | sneReg => cases h; exact .inl (s.skipIf_keepsAllBut _)
  case ldImm | addImm | ldReg | orReg | andReg | xorReg | rnd | ldVxDt =>
    cases h; exact .inl (s.setV_advance_keepsAllBut _ _)
  case addReg | subReg | shr | subnReg | shl => cases h; exact .inl (s.setResult_advance_keepsAllBut _ _ _)
  case ldI | addI | ldFont => cases h; exact .inl (s.setI_advance_frame _).2
  case ldVxKey => cases h; exact .inl (s.enterWait_keepsAllBut _)
  case ldDtVx => cases h; exact .inl (s.setDt_advance_keepsAllBut _)
  case ldStVx => cases h; exact .inl (s.setSt_advance_keepsAllBut _)

theorem State.raise_keepsAllBut (s : State) (f : Fault) (op : Word) : KeepsAllBut faultParts s (s.raise f op) := by
  obtain ⟨-, -, -, -, -, hkeep⟩ := s.raise_faulted f op
  exact hkeep

/-- A part outside an instruction's list and outside the diagnostics survives it, fault or not. -/
theorem exec_agree {i : Instr} {s t : State} (h : exec i s = .next t) {p : Part} (hp : p ∉ writtenParts i)
    (hf : p ∉ faultParts) : Agree p s t := by
  rcases exec_frame h with hk | ⟨f, rfl⟩
  · exact hk p hp
  · exact s.raise_keepsAllBut f _ p hf

/-- A store with a check leaves memory outside its block alone: it stores the block, or it faults and stores nothing. -/
theorem finish_store_keepsMemoryOutside {c : Option Fault} {i : Instr} {s u : State} {a n : Nat} {bs : List Byte}
    (hn : bs.length = n) (h : finish c i s (s.storeBytes a bs).advance = .next u) : KeepsMemoryOutside a n s u := by
  rcases finish_cases c i s _ u h with ⟨-, rfl⟩ | ⟨f, -, rfl⟩
  · exact (s.storeBytes_advance_frame a hn).1
  · exact fun _ _ => rfl

/-! ### Every instruction has a next state -/

theorem finish_total (c : Option Fault) (i : Instr) (s t : State) : ∃ u, finish c i s t = .next u := by
  cases c
  · exact ⟨_, finish_none i s t⟩
  · exact ⟨_, finish_some _ i s t⟩

theorem exec_total (i : Instr) (s : State) : ∃ t, exec i s = .next t := by
  cases i
  case ret | call | drw | bcd | storeRegs | loadRegs => exact finish_total _ _ _ _
  all_goals exact ⟨_, rfl⟩

/-! ### The obligation -/

/-- Settles O50, by the instruction's own update of the state, or its fault entry. -/
theorem instructionsWriteOnlyTheirParts : Obligations.InstructionsWriteOnlyTheirParts := by
  intro i s t h
  refine ⟨(exec_frame h).imp_right fun ⟨f, ht⟩ => ⟨f, ht ▸ s.raise_faulted f _⟩, ?_, ?_⟩
  · rintro x rfl; exact finish_store_keepsMemoryOutside rfl h
  · rintro x rfl; exact finish_store_keepsMemoryOutside (s.regBlock_length x) h

end Sys2Proof.Machine
end

section
/-! The step around the instruction: the latch, the tick and the fetch, the fault entries, and what no step changes
(spec/40_cycle.md R121 to R129, spec/60_exceptions.md R222 to R227). -/

namespace Sys2Proof.Machine

/-! ### The ways a step can end -/

theorem hostStep_outOfRange (inp : HostInput) (s : State) (h : s.running) (hp : 0xFFE < s.pc.toNat) :
    hostStep inp s = .next ((s.ready inp).raise .addressOutOfRange 0) := by
  rw [hostStep_running inp s h, fetchExecute_outOfRange (s.ready inp) hp]

theorem hostStep_refused (inp : HostInput) (s : State) (h : s.running) (hp : s.pc.toNat ≤ 0xFFE) {r : DecodeReject}
    (hd : decode s.wordAtPc = .error r) :
    hostStep inp s = .next ((s.ready inp).raise .decodeFailure s.wordAtPc) := by
  rw [hostStep_running inp s h, fetchExecute_inRange (s.ready inp) hp, State.ready_wordAtPc, hd]

theorem hostStep_total (inp : HostInput) (s : State) : ∃ t, hostStep inp s = .next t := by
  cases hh : s.halted
  case true => exact ⟨_, hostStep_halted inp s hh⟩
  cases hw : s.waiting
  case true => exact ⟨_, hostStep_waiting inp s hh hw⟩
  by_cases hp : s.pc.toNat ≤ 0xFFE
  · cases hd : decode s.wordAtPc with
    | error r => exact ⟨_, hostStep_refused inp s ⟨hh, hw⟩ hp hd⟩
    | ok i =>
      rw [hostStep_decoded inp s i ⟨hh, hw⟩ hp hd]
      exact exec_total i _
  · exact ⟨_, hostStep_outOfRange inp s ⟨hh, hw⟩ (Nat.lt_of_not_le hp)⟩

/-! ### The state an instruction finds -/

@[simp] theorem State.ready_halted (s : State) (inp : HostInput) : (s.ready inp).halted = s.halted := rfl

@[simp] theorem State.ready_pc (s : State) (inp : HostInput) : (s.ready inp).pc = s.pc := rfl

theorem State.ready_running {s : State} (h : s.running) (inp : HostInput) : (s.ready inp).running := h

theorem State.ready_dt (s : State) (inp : HostInput) : (s.ready inp).dt.toNat = s.dt.toNat - 1 := countDown_toNat s.dt

theorem State.ready_st (s : State) (inp : HostInput) : (s.ready inp).st.toNat = s.st.toNat - 1 := countDown_toNat s.st

theorem State.between_keepsAllBut (s : State) (ack : Bool) : KeepsAllBut [.dirty, .stepIndex] s (s.between ack) := by
  intro p hp
  cases p
  case dirty | stepIndex => exact absurd hp (by decide)
  case v | mem => exact fun _ => rfl
  all_goals rfl

/-! ### The timers of an instruction -/

/-- FX15 alone writes `DT`. -/
theorem exec_dt {i : Instr} {s t : State} (h : exec i s = .next t) :
    t.dt = s.dt ∨ ∃ x, i = .ldDtVx x ∧ t.dt = s.reg x := by
  cases i
  case ldDtVx x => cases h; exact .inr ⟨x, rfl, rfl⟩
  all_goals exact .inl (exec_agree h (p := .dt) (by simp [writtenParts]) (by decide))

/-- FX18 alone writes `ST`. -/
theorem exec_st {i : Instr} {s t : State} (h : exec i s = .next t) :
    t.st = s.st ∨ ∃ x, i = .ldStVx x ∧ t.st = s.reg x := by
  cases i
  case ldStVx x => cases h; exact .inr ⟨x, rfl, rfl⟩
  all_goals exact .inl (exec_agree h (p := .st) (by simp [writtenParts]) (by decide))

/-! ### The memory of a step -/

/-- A step leaves memory alone, or stores one block in the writable range. -/
theorem hostStep_mem {inp : HostInput} {s t : State} (h : hostStep inp s = .next t) :
    t.mem = s.mem ∨ ∃ (a : Nat) (bs : List Byte), 0x200 ≤ a ∧ a + bs.length ≤ 0x1000 ∧ t.mem = s.mem.store a bs := by
  rcases hostStep_cases inp s t h with
    ⟨-, rfl⟩ | ⟨-, -, rfl⟩ | ⟨-, -, rfl⟩ | ⟨-, -, -, rfl⟩ | ⟨-, -, i, -, he⟩
  · exact .inl rfl
  · exact .inl (State.waitResolve_mem _)
  · exact .inl rfl
  · exact .inl rfl
  · rcases exec_mem i _ t he with hm | ⟨bs, hlo, hhi, hm⟩
    · exact .inl hm
    · exact .inr ⟨_, bs, hlo, hhi, hm⟩

/-! ### The obligations -/

/-- Settles O44: the state of the instruction is the ready state at the host's free inputs of this step. -/
theorem stepRunsTheDecodedInstruction : Obligations.StepRunsTheDecodedInstruction :=
  fun s i hr hp hd => ⟨s.ready (hostInput s.stepIndex), hostStep_decoded _ s i hr hp hd, rfl, rfl, s.ready_dt _,
    s.ready_st _, rfl, rfl, s.ready_keeps _⟩

/-- Settles O45: a word no row covers is refused by the decoder. -/
theorem illegalWordHaltsTheCore : Obligations.IllegalWordHaltsTheCore := by
  intro inp s hr hp hl
  obtain ⟨r, hd⟩ := (decode_error_iff_not_legalWord s.wordAtPc).mpr hl
  exact ⟨_, hostStep_refused inp s hr hp hd, (s.ready inp).raise_faulted _ _, rfl, rfl, s.ready_dt inp, s.ready_st inp⟩

/-- Settles O46: the fetch fault is entered from the ready state. -/
theorem fetchAboveMemoryHaltsTheCore : Obligations.FetchAboveMemoryHaltsTheCore :=
  fun inp s hr hp => ⟨_, hostStep_outOfRange inp s hr hp, (s.ready inp).raise_faulted _ _⟩

/-- Settles O47: a halted core ignores the step, and the host's AckDirty and the count of steps came before it. -/
theorem haltedStepChangesNothing : Obligations.HaltedStepChangesNothing :=
  fun inp s h => ⟨_, hostStep_halted inp s h, rfl, s.between_keepsAllBut inp.ack⟩

/-- Settles O48: the tick comes before the instruction, a fault entry keeps the timers, and of the instructions FX15 and
FX18 alone write them. -/
theorem timersTickOnceInEveryRunningStep : Obligations.TimersTickOnceInEveryRunningStep := by
  rintro inp s t ⟨hh, hw⟩ h
  rcases hostStep_cases inp s t h with
    ⟨hh', -⟩ | ⟨-, hw', -⟩ | ⟨-, -, rfl⟩ | ⟨-, -, -, rfl⟩ | ⟨-, -, i, hd, he⟩
  · rw [hh] at hh'; cases hh'
  · rw [hw] at hw'; cases hw'
  · exact ⟨.inl (s.ready_dt inp), .inl (s.ready_st inp)⟩
  · exact ⟨.inl (s.ready_dt inp), .inl (s.ready_st inp)⟩
  · constructor
    · rcases exec_dt he with ht | ⟨x, rfl, ht⟩
      · exact .inl (ht ▸ s.ready_dt inp)
      · exact .inr ⟨x, hd, ht⟩
    · rcases exec_st he with ht | ⟨x, rfl, ht⟩
      · exact .inl (ht ▸ s.ready_st inp)
      · exact .inr ⟨x, hd, ht⟩

/-- Settles O51: of the ways a running step ends, the two fault entries of the fetch and the decode are halted, and an
instruction's next state is halted only where it is a fault entry. -/
theorem faultsArePrecise : Obligations.FaultsArePrecise := by
  rintro inp s t ⟨hh, hw⟩ h ht
  rcases hostStep_cases inp s t h with
    ⟨hh', -⟩ | ⟨-, hw', -⟩ | ⟨-, -, rfl⟩ | ⟨-, -, -, rfl⟩ | ⟨-, -, i, -, he⟩
  · rw [hh] at hh'; cases hh'
  · rw [hw] at hw'; cases hw'
  · exact ⟨_, _, (s.ready inp).raise_faulted _ _⟩
  · exact ⟨_, _, (s.ready inp).raise_faulted _ _⟩
  · rcases exec_raise_cases i _ t he with ⟨hkeep, -⟩ | ⟨f, rfl, -⟩
    · have hrun : (s.ready inp).halted = false := hh
      rw [hkeep, hrun] at ht; cases ht
    · exact ⟨f, _, (s.ready inp).raise_faulted f _⟩

/-- Settles O52: each way of the step answers a next state, for every instruction does. -/
theorem everyStepHasANextState : Obligations.EveryStepHasANextState := fun s => hostStep_total _ s

/-- Settles O53: the block a step stores starts at 0x200 or above. -/
theorem fontRegionNeverChanges : Obligations.FontRegionNeverChanges := by
  intro inp s t h a ha
  rcases hostStep_mem h with hm | ⟨lo, bs, hlo, -, hm⟩
  · rw [hm]
  · rw [hm, Memory.read_store_outside _ _ _ _ (.inl (by omega))]

end Sys2Proof.Machine
end

section
/-! The random byte, the timers and the key wait: CXNN, FX07, FX15, FX18, FX0A and the waiting step
(spec/45_timer_random.md R190 to R193, spec/46_keypad.md R200 to R203). -/

namespace Sys2Proof.Machine

/-! ### What the instructions answer -/

theorem exec_rnd (x : RegIndex) (nn : Byte) (s : State) :
    exec (.rnd x nn) s = .next (s.setV x (s.rndIn &&& nn)).advance := rfl

theorem exec_ldVxDt (x : RegIndex) (s : State) : exec (.ldVxDt x) s = .next (s.setV x s.dt).advance := rfl

theorem exec_ldDtVx (x : RegIndex) (s : State) : exec (.ldDtVx x) s = .next (s.setDt (s.reg x)).advance := rfl

theorem exec_ldStVx (x : RegIndex) (s : State) : exec (.ldStVx x) s = .next (s.setSt (s.reg x)).advance := rfl

theorem exec_ldVxKey (x : RegIndex) (s : State) : exec (.ldVxKey x) s = .next (s.enterWait x) := rfl

/-! ### The waiting step -/

/-- The state in which a waiting step resolves the wait: after an `AckDirty` or none, the keypad latch, and the timer tick if
the parameter says so (spec/40_cycle.md R121 item 3). -/
def State.waitReady (s : State) (inp : HostInput) : State :=
  ((s.between inp.ack).latch inp).tickIf Config.timersRunWhileWaiting

theorem State.waitReady_keepsAllBut (s : State) (inp : HostInput) :
    KeepsAllBut [.keys, .rndIn, .dt, .st, .dirty, .stepIndex] s (s.waitReady inp) := by
  intro p hp
  cases p
  case keys | rndIn | dt | st | dirty | stepIndex => exact absurd hp (by decide)
  case v | mem => exact fun _ => rfl
  all_goals rfl

@[simp] theorem State.waitReady_halted (s : State) (inp : HostInput) : (s.waitReady inp).halted = s.halted := rfl

@[simp] theorem State.waitReady_pc (s : State) (inp : HostInput) : (s.waitReady inp).pc = s.pc := rfl

/-- With a key down the lowest one is written, the wait ends and `pc` advances. -/
theorem hostStep_pressed {inp : HostInput} {s : State} {k : RegIndex} (h : s.halted = false) (hw : s.waiting = true)
    (hk : lowestKey inp.keypad = some k) :
    hostStep inp s = .next (((s.waitReady inp).setV s.keyReg (BitVec.ofNat 8 k.val)).leaveWait).advance := by
  rw [hostStep_waiting inp s h hw]
  exact congrArg _ (State.waitResolve_pressed (s := s.waitReady inp) hk)

/-- With no key down the wait goes on. -/
theorem hostStep_idle {inp : HostInput} {s : State} (h : s.halted = false) (hw : s.waiting = true)
    (hk : inp.keypad = 0) : hostStep inp s = .next (s.waitReady inp) := by
  rw [hostStep_waiting inp s h hw]
  exact congrArg _ (State.waitResolve_idle (s := s.waitReady inp) (lowestKey_none.mpr hk))

theorem State.leaveWait_keepsAllBut (s : State) : KeepsAllBut [.waiting] s s.leaveWait := by
  intro p hp
  cases p
  case waiting => exact absurd hp (by decide)
  case v | mem => exact fun _ => rfl
  all_goals rfl

/-- The resolution of a wait writes one register, the wait latch and `pc`. -/
theorem State.resolved_keepsAllBut (s : State) (x : RegIndex) (b : Byte) :
    KeepsAllBut [.v, .waiting, .pc] s ((s.setV x b).leaveWait).advance :=
  ((s.setV_keepsAllBut x b).mono (by decide)).trans
    (((s.setV x b).leaveWait_keepsAllBut.mono (by decide)).trans
      (((s.setV x b).leaveWait.setPc_keepsAllBut _).mono (by decide)))

theorem State.waitReady_dt_stopped (s : State) (inp : HostInput) (h : Config.timersRunWhileWaiting = false) :
    (s.waitReady inp).dt = s.dt ∧ (s.waitReady inp).st = s.st := by
  simp [State.waitReady, h]

theorem State.waitReady_dt_running (s : State) (inp : HostInput) (h : Config.timersRunWhileWaiting = true) :
    (s.waitReady inp).dt.toNat = s.dt.toNat - 1 ∧ (s.waitReady inp).st.toNat = s.st.toNat - 1 := by
  simp [State.waitReady, h, countDown_toNat]

/-- The register waited for holds the number of the key. -/
theorem State.resolved_reg (s : State) (x k : RegIndex) :
    (((s.setV x (BitVec.ofNat 8 k.val)).leaveWait).advance.reg x).toNat = k.val := by
  rw [State.advance_reg, State.leaveWait_reg, State.setV_reg, if_pos rfl, digit_toNat (by omega)]

theorem State.resolved_running {s : State} (h : s.halted = false) (x : RegIndex) (b : Byte) :
    ((s.setV x b).leaveWait).advance.running :=
  ⟨h, rfl⟩

/-- The two ways a waiting step goes. -/
theorem hostStep_waiting_cases {inp : HostInput} {s t : State} (h : s.halted = false) (hw : s.waiting = true)
    (hst : hostStep inp s = .next t) :
    t = s.waitReady inp ∨ ∃ b, t = (((s.waitReady inp).setV s.keyReg b).leaveWait).advance := by
  cases hk : lowestKey inp.keypad with
  | none => rw [hostStep_idle h hw (lowestKey_none.mp hk)] at hst; cases hst; exact .inl rfl
  | some k => rw [hostStep_pressed h hw hk] at hst; cases hst; exact .inr ⟨_, rfl⟩

/-! ### The obligations -/

/-- Settles O37: the mask works bit by bit. -/
theorem randomByteIsMasked : Obligations.RandomByteIsMasked := by
  refine fun x nn s => ⟨_, exec_rnd x nn s, fun k => ?_, fun h => ?_, fun h => ?_, s.setV_advance_frame x _⟩ <;>
    rw [State.setV_advance_reg_self]
  · exact BitVec.getLsbD_and
  · rw [h]; exact BitVec.and_zero
  · rw [h]; exact BitVec.and_allOnes

/-- Settles O38: the tick of the step comes before the read. -/
theorem delayTimerIsReadAfterTheTick : Obligations.DelayTimerIsReadAfterTheTick := by
  refine fun x s => ⟨⟨_, exec_ldVxDt x s, s.setV_advance_reg_self x _, s.setV_advance_frame x _⟩, fun inp hr hp hd => ?_⟩
  refine ⟨_, (hostStep_decoded inp s _ hr hp hd).trans (exec_ldVxDt x _), ?_, s.ready_dt inp⟩
  rw [State.setV_advance_reg_self, State.ready_dt]

/-- Settles O39: the tick of the step comes before the write. -/
theorem timersAreSetAfterTheTick : Obligations.TimersAreSetAfterTheTick :=
  fun x s => ⟨⟨_, exec_ldDtVx x s, rfl, rfl, s.setDt_advance_keepsAllBut _⟩,
    ⟨_, exec_ldStVx x s, rfl, bne_iff_ne, rfl, s.setSt_advance_keepsAllBut _⟩,
    fun inp hr hp => ⟨fun hd => ⟨_, (hostStep_decoded inp s _ hr hp hd).trans (exec_ldDtVx x _), rfl⟩,
      fun hd => ⟨_, (hostStep_decoded inp s _ hr hp hd).trans (exec_ldStVx x _), rfl⟩⟩⟩

/-- Settles O40: FX0A looks at no key. -/
theorem keyWaitEntersWaiting : Obligations.KeyWaitEntersWaiting :=
  fun x s => ⟨_, exec_ldVxKey x s, rfl, rfl, s.enterWait_keepsAllBut x⟩

/-- Settles O41, by whether a key is down. -/
theorem waitingStepExecutesNothing : Obligations.WaitingStepExecutesNothing := by
  intro inp s h hw
  have hframe := s.waitReady_keepsAllBut inp
  by_cases hk : inp.keypad = 0
  · exact ⟨_, hostStep_idle h hw hk, h, rfl, rfl, s.waitReady_dt_stopped inp, s.waitReady_dt_running inp,
      fun _ => ⟨hw, rfl, fun _ => rfl⟩, fun hne => absurd hk hne, hframe.mono (by decide)⟩
  · obtain ⟨k, hlow⟩ := Option.ne_none_iff_exists'.mp (fun e => hk (lowestKey_none.mp e))
    exact ⟨_, hostStep_pressed h hw hlow, h, rfl, rfl, s.waitReady_dt_stopped inp, s.waitReady_dt_running inp,
      fun he => absurd he hk, fun _ => ⟨rfl, rfl, fun r hr => (s.waitReady inp).setV_advance_reg_of_ne _ hr⟩,
      (hframe.mono (by decide)).trans (((s.waitReady inp).resolved_keepsAllBut _ _).mono (by decide))⟩

/-- Settles O42: the scan finds the lowest pressed key. -/
theorem waitResolvesToTheLowestKey : Obligations.WaitResolvesToTheLowestKey :=
  fun inp s k h hw hdown hlow => ⟨_, hostStep_pressed h hw (lowestKey_of_lowest hdown hlow),
    (s.waitReady inp).resolved_reg s.keyReg k, fun _ hr => (s.waitReady inp).setV_advance_reg_of_ne _ hr, rfl, rfl⟩

/-- Settles O43: the first step is FX0A's own, the second resolves the wait it entered. -/
theorem keyWaitTakesTwoStepsWithAKeyHeld : Obligations.KeyWaitTakesTwoStepsWithAKeyHeld := by
  intro inp inp' x k s hr hp hd hdown hlow
  have henter : hostStep inp s = .next ((s.ready inp).enterWait x) :=
    (hostStep_decoded inp s _ hr hp hd).trans (exec_ldVxKey x _)
  have hresolve := hostStep_pressed (s := (s.ready inp).enterWait x) hr.1 rfl (lowestKey_of_lowest hdown hlow)
  rw [State.enterWait_keyReg] at hresolve
  have hrun : (((s.ready inp).enterWait x).waitReady inp').halted = false := by simp [hr.1]
  exact ⟨_, _, henter, rfl, rfl, fun _ => rfl, hresolve, State.resolved_running hrun x _, by simp,
    State.resolved_reg _ x k⟩

end Sys2Proof.Machine
end

section
/-! What an instruction cannot observe: the keys, the random byte but in CXNN, `ST` and `dirty`; and the program that has
finished (spec/10_state.md section 9, spec/46_keypad.md, spec/70_reset_and_hazards.md R259). -/

namespace Sys2Proof.Machine

/-- A change of the state that commutes with fault entry commutes with the check of an instruction. -/
theorem finish_map {c : Option Fault} {i : Instr} {s t u : State} (g : State → State)
    (hg : ∀ f, g (s.raise f (encode i)) = (g s).raise f (encode i)) (h : finish c i s t = .next u) :
    finish c i (g s) (g t) = .next (g u) := by
  rcases finish_cases c i s t u h with ⟨rfl, rfl⟩ | ⟨f, rfl, rfl⟩
  · rfl
  · rw [hg]; rfl

/-! ### The host's inputs -/

/-- The state with other latched inputs. -/
def State.withInputs (s : State) (k : BitVec 16) (b : Byte) : State := { s with keys := k, rndIn := b }

theorem State.push_withInputs (s : State) (k : BitVec 16) (b : Byte) (a : Word) :
    (s.withInputs k b).push a = (s.push a).withInputs k b := by
  unfold State.push
  split
  · next h => rw [dif_pos (show s.sp.val < 16 from h)]; rfl
  · next h => rw [dif_neg (show ¬ s.sp.val < 16 from h)]

/-- No instruction reads the keys, and CXNN alone reads the random byte. -/
theorem exec_withInputs {i : Instr} {s t : State} (k : BitVec 16) {b : Byte}
    (hi : b = s.rndIn ∨ ∀ x nn, i ≠ .rnd x nn) (h : exec i s = .next t) :
    exec i (s.withInputs k b) = .next (t.withInputs k b) := by
  cases i
  case rnd x nn =>
    rcases hi with rfl | hne
    · cases h; rfl
    · exact absurd rfl (hne x nn)
  case call nnn =>
    show finish _ _ _ (State.setPc (State.push (s.withInputs k b) _) _) = _
    rw [State.push_withInputs]
    exact finish_map (fun s => s.withInputs k b) (fun _ => rfl) h
  case ret | drw | bcd | storeRegs | loadRegs => exact finish_map (fun s => s.withInputs k b) (fun _ => rfl) h
  all_goals (cases h; rfl)

theorem keys_not_written (i : Instr) : Part.keys ∉ writtenParts i := by cases i <;> simp [writtenParts]

theorem rndIn_not_written (i : Instr) : Part.rndIn ∉ writtenParts i := by cases i <;> simp [writtenParts]

/-- Settles O54: the inputs that are not changed are those of the state before, and those of the state after. -/
theorem hostInputsReachOnlyTheirReaders : Obligations.HostInputsReachOnlyTheirReaders := by
  intro i s t b k h
  have hkeys : t.keys = s.keys := exec_agree h (keys_not_written i) (by decide)
  have hrnd : t.rndIn = s.rndIn := exec_agree h (rndIn_not_written i) (by decide)
  have hk : t.withInputs k s.rndIn = { t with keys := k } := by rw [← hrnd]; rfl
  have hb : t.withInputs s.keys b = { t with rndIn := b } := by rw [← hkeys]; rfl
  exact ⟨(exec_withInputs k (.inl rfl) h).trans (congrArg _ hk),
    fun hi => (exec_withInputs s.keys (.inr hi) h).trans (congrArg _ hb)⟩

/-! ### The outputs -/

/-- The state with another `ST` and `dirty`. -/
def State.withOutputs (s : State) (b : Byte) (d : Bool) : State := { s with st := b, dirty := d }

theorem State.push_withOutputs (s : State) (b : Byte) (d : Bool) (a : Word) :
    (s.withOutputs b d).push a = (s.push a).withOutputs b d := by
  unfold State.push
  split
  · next h => rw [dif_pos (show s.sp.val < 16 from h)]; rfl
  · next h => rw [dif_neg (show ¬ s.sp.val < 16 from h)]

theorem State.withOutputs_keepsAllBut (s : State) (b : Byte) (d : Bool) :
    KeepsAllBut [.st, .dirty] s (s.withOutputs b d) := by
  intro p hp
  cases p
  case st | dirty => exact absurd hp (by decide)
  case v | mem => exact fun _ => rfl
  all_goals rfl

/-- An instruction passes `ST` and `dirty` on, or overwrites them with what does not depend on them: FX18 writes `ST`, a
draw or a clear sets `dirty`. -/
theorem exec_withOutputs {i : Instr} {s t : State} (b : Byte) (d : Bool) (h : exec i s = .next t) :
    ∃ b' d', exec i (s.withOutputs b d) = .next (t.withOutputs b' d') := by
  cases i
  case cls => cases h; exact ⟨b, true, rfl⟩
  case ldStVx x => cases h; exact ⟨s.reg x, d, rfl⟩
  case drw x y n =>
    rcases finish_cases _ _ _ _ _ h with ⟨hc, rfl⟩ | ⟨f, hc, rfl⟩
    · exact ⟨b, true, (congrArg (finish · _ _ _) hc).trans rfl⟩
    · exact ⟨b, d, exec_drw_of_fault x y n _ f hc⟩
  case call nnn =>
    refine ⟨b, d, ?_⟩
    show finish _ _ _ (State.setPc (State.push (s.withOutputs b d) _) _) = _
    rw [State.push_withOutputs]
    exact finish_map (fun s => s.withOutputs b d) (fun _ => rfl) h
  case ret | bcd | storeRegs | loadRegs => exact ⟨b, d, finish_map (fun s => s.withOutputs b d) (fun _ => rfl) h⟩
  all_goals (cases h; exact ⟨b, d, rfl⟩)

/-- Settles O55: the answer differs in `ST` and `dirty` alone. -/
theorem soundTimerAndDirtyAreUnobservable : Obligations.SoundTimerAndDirtyAreUnobservable := by
  intro i s t b d h
  obtain ⟨b', d', hexec⟩ := exec_withOutputs b d h
  exact ⟨_, hexec, t.withOutputs_keepsAllBut b' d'⟩

/-! ### The finished program -/

theorem State.finished_ready {s : State} (inp : HostInput) (h : s.finished) : (s.ready inp).finished := by
  obtain ⟨hr, hp, hjump⟩ := h
  exact ⟨State.ready_running hr inp, hp, hjump⟩

/-- The step of a finished program is the jump to where it is: the ready state is left. -/
theorem hostStep_finished (inp : HostInput) {s : State} (h : s.finished) : hostStep inp s = .next (s.ready inp) := by
  obtain ⟨hr, hp, nnn, hd, hn⟩ := h
  have htarget : zext16 nnn = (s.ready inp).pc :=
    BitVec.eq_of_toNat_eq (by rw [zext16_toNat nnn (by decide), State.ready_pc, hn])
  rw [hostStep_decoded inp s _ hr hp hd, exec_jp, htarget]; rfl

/-- Settles O56: the ready state is finished as well. -/
theorem finishedProgramStaysFinished : Obligations.FinishedProgramStaysFinished :=
  fun inp s h => ⟨_, hostStep_finished inp h, State.finished_ready inp h, (s.ready_keeps inp).mono (by decide)⟩

end Sys2Proof.Machine
end

section
/-! The three invariants of every step: memory, the program counter with the wait, and the fault registers; and the states a
run starts from (spec/10_state.md R22, R37, R38, R40, R41, spec/20_memory.md R66). -/

namespace Sys2Proof.Machine

/-! ### Memory (spec/10_state.md R41) -/

theorem MemoryInv.of_mem_eq {s t : State} (h : MemoryInv s) (hm : t.mem = s.mem) : MemoryInv t := by
  unfold MemoryInv
  rw [hm]
  exact h

/-- A block stored in the writable range keeps the canonical form and the font region. -/
theorem MemoryInv.of_store {s t : State} {a : Nat} {bs : List Byte} (h : MemoryInv s) (hlo : 0x200 ≤ a)
    (hhi : a + bs.length ≤ 0x1000) (hm : t.mem = s.mem.store a bs) : MemoryInv t := by
  obtain ⟨hwf, hram⟩ := h
  unfold MemoryInv
  rw [hm]
  exact ⟨Memory.wf_store a bs hwf, Memory.inRam_store bs hram hlo hhi⟩

/-- Settles O57: a step leaves memory alone, or stores one block in the writable range. -/
theorem everyStepKeepsMemoryInv : Obligations.EveryStepKeepsMemoryInv := by
  intro s t hi h
  rcases hostStep_mem h with hm | ⟨a, bs, hlo, hhi, hm⟩
  · exact hi.of_mem_eq hm
  · exact hi.of_store hlo hhi hm

/-! ### The program counter, the wait and the stack (spec/10_state.md R22, R38) -/

/-- The invariant speaks of five parts of the state. -/
theorem PcInv.of_eq {s t : State} (h : PcInv s) (hpc : t.pc = s.pc) (hw : t.waiting = s.waiting)
    (hk : t.keyReg = s.keyReg) (hm : t.mem = s.mem) (hs : t.stack = s.stack) : PcInv t := by
  unfold PcInv State.wordAtPc
  rw [hpc, hw, hk, hm, hs]
  exact h

theorem PcInv.of_running {s : State} (hpc : s.pc.toNat ≤ 0x10FE) (hw : s.waiting = false)
    (hs : ∀ k : Fin 16, s.stack[k].toNat ≤ 0x1000) : PcInv s :=
  ⟨hpc, fun hw' => (by rw [hw] at hw'; cases hw'), hs⟩

theorem PcInv.ready {s : State} (h : PcInv s) (inp : HostInput) : PcInv (s.ready inp) := h.of_eq rfl rfl rfl rfl rfl

theorem PcInv.raise {s : State} (h : PcInv s) (f : Fault) (op : Word) : PcInv (s.raise f op) :=
  h.of_eq rfl rfl rfl rfl rfl

theorem pc_add_two_toNat {pc : Word} (h : pc.toNat ≤ 0xFFE) : (pc + 2).toNat = pc.toNat + 2 :=
  (pc_add_toNat_of_le (Nat.le_trans h (by decide))).1

/-- From a `pc` that can be fetched every instruction goes to at most 0x10FE, which BNNN reaches. -/
theorem nextPc_le {s : State} (hp : s.pc.toNat ≤ 0xFFE) (hs : ∀ k : Fin 16, s.stack[k].toNat ≤ 0x1000) (i : Instr) :
    (nextPc s i).toNat ≤ 0x10FE := by
  have h2 : (s.pc + 2).toNat ≤ 0x10FE := by rw [pc_add_two_toNat hp]; omega
  have h4 : (s.pc + 4).toNat ≤ 0x10FE := by
    rw [(pc_add_toNat_of_le (Nat.le_trans hp (by decide))).2]; omega
  cases i
  case ret => exact Nat.le_trans (hs ⟨s.sp.val - 1, by omega⟩) (by decide)
  case jp nnn | call nnn =>
    have hn := nnn.isLt
    rw [nextPc, zext16_toNat nnn (by decide)]; omega
  case jpV0 nnn => exact zext16_add_le nnn (s.reg 0)
  case seImm x nn | sneReg x y => rw [nextPc]; split <;> assumption
  case ldVxKey => exact Nat.le_trans hp (by decide)
  all_goals exact h2

/-- A call alone writes the stack, and only with room. -/
theorem exec_stack {i : Instr} {s t : State} (h : exec i s = .next t) :
    t.stack = s.stack ∨ s.sp.val < 16 ∧ t.stack = (s.push (s.pc + 2)).stack := by
  cases i
  case call nnn =>
    by_cases hfull : s.sp.val = 16
    · rw [exec_call_of_full nnn s hfull] at h; cases h; exact .inl rfl
    · have hroom : s.sp.val < 16 := by omega
      rw [exec_call_of_room nnn s hroom] at h; cases h; exact .inr ⟨hroom, rfl⟩
  all_goals exact .inl (exec_agree h (p := .stack) (by simp [writtenParts]) (by decide))

/-- A push stacks its address on entries within the bound. -/
theorem State.push_stack_le {s : State} {a : Word} (hroom : s.sp.val < 16) (ha : a.toNat ≤ 0x1000)
    (hs : ∀ k : Fin 16, s.stack[k].toNat ≤ 0x1000) (k : Fin 16) : (s.push a).stack[k].toNat ≤ 0x1000 := by
  by_cases hk : k = ⟨s.sp.val, hroom⟩
  · subst hk
    exact (congrArg BitVec.toNat (s.push_stack_self a hroom)).trans_le ha
  · rw [State.push_stack_of_ne s a hroom k (fun e => hk (Fin.ext e))]; exact hs k

/-- An instruction fetched within memory stacks nothing above the end of memory. -/
theorem exec_stack_le {i : Instr} {s t : State} (h : exec i s = .next t) (hp : s.pc.toNat ≤ 0xFFE)
    (hs : ∀ k : Fin 16, s.stack[k].toNat ≤ 0x1000) (k : Fin 16) : t.stack[k].toNat ≤ 0x1000 := by
  rcases exec_stack h with hstack | ⟨hroom, hstack⟩ <;> rw [hstack]
  · exact hs k
  · exact State.push_stack_le hroom (by rw [pc_add_two_toNat hp]; omega) hs k

/-- FX0A alone enters the wait. -/
theorem exec_waiting {i : Instr} {s t : State} (h : exec i s = .next t) :
    t.waiting = s.waiting ∨ ∃ x, i = .ldVxKey x ∧ t = s.enterWait x := by
  cases i
  case ldVxKey x => cases h; exact .inr ⟨x, rfl, rfl⟩
  all_goals exact .inl (exec_agree h (p := .waiting) (by simp [writtenParts]) (by decide))

/-- An instruction keeps the invariant: it faults where it is, or it goes on to its `nextPc`, waiting only in FX0A. -/
theorem exec_keeps_pcInv {i : Instr} {s t : State} (hi : PcInv s) (hr : s.running) (hp : s.pc.toNat ≤ 0xFFE)
    (hd : decode s.wordAtPc = .ok i) (h : exec i s = .next t) : PcInv t := by
  rcases exec_raise_cases i s t h with ⟨hhalt, -⟩ | ⟨f, rfl, -⟩
  · obtain ⟨hpc, -, hs⟩ := hi
    have hnext : t.pc.toNat ≤ 0x10FE := by
      rw [exec_pc_eq_nextPc h (hhalt.trans hr.1)]; exact nextPc_le hp hs i
    rcases exec_waiting h with hw | ⟨x, rfl, rfl⟩
    · exact PcInv.of_running hnext (hw.trans hr.2) (exec_stack_le h hp hs)
    · exact ⟨hpc, fun _ => ⟨hp, hd⟩, hs⟩
  · exact hi.raise f _

/-- Settles O58, by the five ways a step ends; a wait is resolved from an FX0A at 0xFFE or below. -/
theorem everyStepKeepsPcInv : Obligations.EveryStepKeepsPcInv := by
  intro s t hi h
  rcases hostStep_cases _ s t h with
    ⟨-, rfl⟩ | ⟨hh, hw, -⟩ | ⟨-, -, rfl⟩ | ⟨-, -, -, rfl⟩ | ⟨hr, hp, i, hd, he⟩
  · exact hi.of_eq rfl rfl rfl rfl rfl
  · rcases hostStep_waiting_cases hh hw h with rfl | ⟨b, rfl⟩
    · exact hi.of_eq rfl rfl rfl rfl rfl
    · obtain ⟨-, hwait, hs⟩ := hi
      obtain ⟨hp, -⟩ := hwait hw
      refine PcInv.of_running ?_ rfl hs
      rw [State.advance_pc, State.leaveWait_pc, State.setV_pc, State.waitReady_pc, pc_add_two_toNat hp]; omega
  · exact (hi.ready _).raise _ _
  · exact (hi.ready _).raise _ _
  · exact exec_keeps_pcInv (hi.ready _) (State.ready_running hr _) hp hd he

/-! ### The fault registers (spec/10_state.md R37) -/

/-- A state that is not halted and has the diagnostics of one that meets the invariant meets it. -/
theorem FaultInv.of_not_halted {s t : State} (h : FaultInv s) (hh : s.halted = false)
    (hkeep : t.halted = s.halted ∧ t.faultCause = s.faultCause ∧ t.faultPc = s.faultPc ∧ t.faultOpcode = s.faultOpcode ∧
      t.faultSp = s.faultSp) : FaultInv t := by
  obtain ⟨hhalt, hcause, hpc, hop, hsp⟩ := hkeep
  refine ⟨fun _ => ?_, fun ht => ?_⟩
  · rw [hcause, hpc, hop, hsp]; exact h.1 hh
  · rw [hhalt, hh] at ht; cases ht

/-- The resolution of a wait leaves the diagnostics alone. -/
theorem FaultInv.resolved {s : State} (h : FaultInv s) (hh : s.halted = false) (x : RegIndex) (b : Byte) :
    FaultInv ((s.setV x b).leaveWait).advance :=
  h.of_not_halted hh ⟨rfl, rfl, rfl, rfl, rfl⟩

/-- A fault entry from a state that is not waiting meets the invariant where its word and its cause fit. -/
theorem FaultInv.of_raise {s : State} {f : Fault} {op : Word} (hw : s.waiting = false)
    (h : (0xFFE < s.pc.toNat ∧ f.code = 4 ∧ op = 0) ∨
      (s.pc.toNat ≤ 0xFFE ∧ op = s.wordAtPc ∧ CauseFits (s.raise f op))) : FaultInv (s.raise f op) :=
  ⟨fun hh => (by cases hh), fun _ => ⟨hw, rfl, rfl, h⟩⟩

/-- The cause an instruction raises fits the word it was decoded from. -/
theorem causeFits_of_raises {s : State} {i : Instr} {f : Fault} (op : Word) (hd : decode s.wordAtPc = .ok i)
    (h : Raises i s f) : CauseFits (s.raise f op) := by
  refine .inr ⟨i, hd, ?_⟩
  cases f
  case decodeFailure => exact h.elim
  case stackOverflow => exact .inl ⟨rfl, h⟩
  case stackUnderflow => exact .inr (.inl ⟨rfl, h⟩)
  case addressOutOfRange => exact .inr (.inr (.inl ⟨rfl, h⟩))
  case fontRegionWrite => exact .inr (.inr (.inr ⟨rfl, h⟩))

/-- An instruction keeps the invariant: it leaves the diagnostics alone, or it raises a cause whose condition holds, with
the word it was decoded from. -/
theorem exec_keeps_faultInv {i : Instr} {s t : State} (hi : FaultInv s) (hr : s.running) (hp : s.pc.toNat ≤ 0xFFE)
    (hd : decode s.wordAtPc = .ok i) (h : exec i s = .next t) : FaultInv t := by
  rcases exec_raise_cases i s t h with hkeep | ⟨f, rfl, hf⟩
  · exact hi.of_not_halted hr.1 hkeep
  · exact .of_raise hr.2 (.inr ⟨hp, encode_of_decode hd, causeFits_of_raises _ hd hf⟩)

/-- Settles O59, by the five ways a step ends. -/
theorem everyStepKeepsFaultInv : Obligations.EveryStepKeepsFaultInv := by
  intro s t hi h
  rcases hostStep_cases _ s t h with
    ⟨-, rfl⟩ | ⟨hh, hw, -⟩ | ⟨⟨-, hw⟩, hp, rfl⟩ | ⟨⟨-, hw⟩, hp, hd, rfl⟩ | ⟨hr, hp, i, hd, he⟩
  · exact hi
  · have hready : FaultInv (s.waitReady (hostInput s.stepIndex)) := hi.of_not_halted hh ⟨rfl, rfl, rfl, rfl, rfl⟩
    rcases hostStep_waiting_cases hh hw h with rfl | ⟨b, rfl⟩
    · exact hready
    · exact hready.resolved hh s.keyReg b
  · exact .of_raise hw (.inl ⟨hp, rfl, rfl⟩)
  · exact .of_raise hw (.inr ⟨hp, rfl, .inl ⟨rfl, (decode_error_iff_not_legalWord s.wordAtPc).mp hd⟩⟩)
  · have hi' : FaultInv (s.ready (hostInput s.stepIndex)) := hi.of_not_halted hr.1 ⟨rfl, rfl, rfl, rfl, rfl⟩
    exact exec_keeps_faultInv hi' (State.ready_running hr _) hp hd he

/-! ### Reset, load and AckDirty (spec/10_state.md R40, spec/20_memory.md R66, spec/60_exceptions.md R238) -/

theorem reset_pixel (row col : Nat) : pixelAt State.reset.fb row col = false := pixelAt_blankScreen row col

theorem initialByte_of_lt {a : Nat} (h : a < 80) : Memory.initialByte a = Config.fontRom[a] := dif_pos h

theorem initialByte_of_le {a : Nat} (h : 80 ≤ a) : Memory.initialByte a = 0 := dif_neg (Nat.not_lt.mpr h)

theorem memoryInv_reset : MemoryInv State.reset := ⟨rfl, rfl⟩

theorem pcInv_reset : PcInv State.reset := PcInv.of_running (by decide) rfl (by decide)

theorem faultInv_reset : FaultInv State.reset := ⟨fun _ => ⟨rfl, rfl, rfl, rfl⟩, fun h => (by cases h)⟩

/-- A load is cut off so that it ends at 0xFFF. -/
theorem MemoryInv.load {s : State} (h : MemoryInv s) (bytes : List Byte) : MemoryInv (s.load bytes) :=
  h.of_store (Nat.le_refl 0x200) (by rw [List.length_take]; omega) (s.load_mem bytes)

theorem State.load_keepsAllBut (s : State) (bytes : List Byte) : KeepsAllBut [.mem] s (s.load bytes) :=
  s.storeBytes_keepsAllBut _ _

theorem State.ackDirty_keepsAllBut (s : State) : KeepsAllBut [.dirty] s s.ackDirty := by
  intro p hp
  cases p
  case dirty => exact absurd hp (by decide)
  case v | mem => exact fun _ => rfl
  all_goals rfl

/-- An `AckDirty` just before a step is the one folded into it. -/
theorem State.between_ack (s : State) : s.between true = s.ackDirty.between false := by
  simp [State.between, State.ackDirty]

/-- Settles O1: every field is written out in the reset state, and unlisted memory reads as its reset contents. -/
theorem resetLeavesTheSpecValues : Obligations.ResetLeavesTheSpecValues :=
  ⟨by decide, rfl, rfl, by decide, rfl, rfl, rfl, fun _ h => initialByte_of_lt h, fun _ h _ => initialByte_of_le h,
    reset_pixel, rfl, rfl, rfl, rfl, rfl, rfl, rfl, rfl, rfl, rfl⟩

/-- Settles O2: the word at 0x200 after reset is 0x0000, which no row of the opcode table covers. -/
theorem stepWithoutLoadRaisesDecodeFailure : Obligations.StepWithoutLoadRaisesDecodeFailure := by
  intro inp
  have hword : State.reset.wordAtPc = 0 := by decide
  obtain ⟨t, ht, hf, -⟩ := illegalWordHaltsTheCore inp State.reset ⟨rfl, rfl⟩ (by decide) (by rw [hword]; decide)
  exact ⟨t, ht, hword ▸ hf⟩

/-- Settles O3: the load is a store of the first 3584 bytes, which reach from 0x200 to 0xFFF. -/
theorem loadCopiesFromProgramBase : Obligations.LoadCopiesFromProgramBase := by
  refine fun s bytes => ⟨fun k hk hle => ?_, fun a ha => ?_, s.load_keepsAllBut bytes⟩
  · refine s.mem.read_store_of_getElem? 0x200 k ?_
    rw [List.getElem?_take_of_lt (by omega), List.getElem?_eq_getElem hk]
  · refine s.mem.read_store_outside 0x200 _ a ?_
    rw [List.length_take]; omega

/-- Settles O60: a load writes memory alone, and an AckDirty writes `dirty` alone, of which no invariant speaks. -/
theorem resetMeetsTheInvariants : Obligations.ResetMeetsTheInvariants := by
  refine ⟨⟨memoryInv_reset, pcInv_reset, faultInv_reset⟩, fun bytes => ⟨memoryInv_reset.load bytes, ?_, ?_⟩,
    fun s => ⟨rfl, s.ackDirty_keepsAllBut, id, id, id⟩, fun keys rnd s => ?_⟩
  · obtain ⟨hpc, -, hs⟩ := pcInv_reset
    exact PcInv.of_running hpc rfl hs
  · exact faultInv_reset.of_not_halted rfl ⟨rfl, rfl, rfl, rfl, rfl⟩
  · exact congrArg (cycle ⟨keys, rnd, true⟩) s.between_ack

end Sys2Proof.Machine
end
